-- ==== Sys2Proof/Word.lean ====
section
/-! DEFINITION. The units of Table 0-1: a byte, a line of 64 bytes, a byte mask. -/

namespace Sys2Proof

/-- One byte of a line or of a management frame. -/
abbrev Byte := BitVec 8

/-- The 64 data bytes of one line, the unit of every host transaction and media operation (Table 0-1). -/
abbrev Line := Vector Byte 64

/-- A set of byte positions 0 … 63 of one line: bit `i` is position `i` (R39, R46). -/
abbrev Mask := BitVec 64

/-- 64 bytes of value 0 (Table 1-2). -/
def zeroLine : Line := Vector.replicate 64 0

/-- 64 bytes of value 255, the data of a line in the erased state (R2). -/
def erasedLine : Line := Vector.replicate 64 255

/-- The mask that holds all 64 positions (R50). -/
def fullMask : Mask := BitVec.allOnes 64

end Sys2Proof
end

