-- ==== Sys2Proof/Syntax.lean ====
section
/-! DEFINITION. The commands of the part: one constructor of `Instr` for each row of spec/opcode_table.json, and
the names and records that the commands carry. -/

namespace Sys2Proof

/-! ## Names and records carried by commands -/

/-- The state of one metadata copy (R130). -/
inductive CopyState where
  | ok
  | failed
  deriving DecidableEq, Repr, Inhabited

/-- One of the two field metadata copies (R126). -/
inductive CopyId where
  | a
  | b
  deriving DecidableEq, Repr, Inhabited

/-- The four states of a spare (R32). -/
inductive SpareState where
  | free
  | pending
  | inUse
  | retired
  deriving DecidableEq, Repr, Inhabited

/-- The six settings of the persistent configuration (Table 7-1), as the numbers of Table 10-4: write mode
0 BACK or 1 THROUGH, drain threshold, entry age timer in units of 0.1 ms, correction threshold, patrol enable
0 or 1, patrol interval in µs. -/
structure Settings where
  writeMode : Nat
  drainThreshold : Nat
  ageTimer : Nat
  corrThreshold : Nat
  patrolEnable : Nat
  patrolInterval : Nat
  deriving DecidableEq, Repr, Inhabited

/-- The five health counters (R160). -/
structure Counters where
  relocationsCompleted : Nat
  sparesRetired : Nat
  linesPoisoned : Nat
  uncorrectableSeen : Nat
  programFailuresSeen : Nat
  deriving DecidableEq, Repr, Inhabited

/-- A manufacturing record (R125). `formatOk` and `checkOk` say whether the format code is the one the part accepts
and whether the check value matches: the code and the function are left out by section 0.7. -/
structure MfgRecord where
  formatOk : Bool
  checkOk : Bool
  count : Nat
  defects : List Nat
  deriving DecidableEq, Repr, Inhabited

/-- A field image (R126, Table 7-1). `formatOk` and `checkOk` are as in `MfgRecord`. `spares` lists the spares that
are not FREE, in ascending order. -/
structure FieldImage where
  formatOk : Bool
  checkOk : Bool
  sequence : Nat
  otherCopy : CopyState
  config : Settings
  elp : Nat
  remap : List (Nat × Nat)
  spares : List (Nat × SpareState)
  lost : List Nat
  counters : Counters
  deriving DecidableEq, Repr, Inhabited

/-- What one line of the array holds: 64 bytes, or line `k` of a manufacturing record or of a field image, whose
byte encodings are left out by section 0.7 (log 11). -/
inductive LineContent where
  | bytes (l : Line)
  | mfg (r : MfgRecord) (k : Nat)
  | image (i : FieldImage) (k : Nat)
  deriving DecidableEq, Repr, Inhabited

/-- The outcome a line read reports at the array (first column of Table 1-2, the timeout apart). -/
inductive ArrayOutcome where
  | clean
  | corrected (bits : Nat)
  | uncorrectable
  deriving DecidableEq, Repr, Inhabited

/-- Where the bytes of a read answer come from: the line as the array holds it (R5), or content of the answer's
own, for lines whose content the model does not fix (log 10). -/
inductive ReadSource where
  | stored
  | given (content : LineContent) (poison : Bool)
  deriving DecidableEq, Repr, Inhabited

/-- The end of a line program: DONE or FAIL (R5). -/
inductive ProgramResult where
  | done
  | fail
  deriving DecidableEq, Repr, Inhabited

/-- An answer of the array (R3, R5). -/
inductive ArrayAnswer where
  | read (outcome : ArrayOutcome) (source : ReadSource)
  | program (result : ProgramResult)
  deriving DecidableEq, Repr, Inhabited

/-- The order of the delivery of an answer and the arbiter's next choice, which R9 leaves open (log 9). -/
inductive AnswerOrder where
  | choiceFirst
  | deliveryFirst
  deriving DecidableEq, Repr, Inhabited

/-- The order of a timeout's event and its delivery, which R14 leaves open (log 9). -/
inductive TimeoutOrder where
  | eventFirst
  | deliveryFirst
  deriving DecidableEq, Repr, Inhabited

/-- The causes of a relocation request (Table 6-1). -/
inductive RelocCause where
  | programFail
  | uncorrectable
  | corrThreshold
  | management
  deriving DecidableEq, Repr, Inhabited

/-- The parties that request a commit and wait on it (Table 7-3). -/
inductive CommitParty where
  | engine
  | queue
  | link
  | loader
  deriving DecidableEq, Repr, Inhabited

/-- The two requesters of a lost-list addition (R34). -/
inductive LostRequester where
  | engine
  | queue
  deriving DecidableEq, Repr, Inhabited

/-- A report of an input to the health block (Table 9-1). `startup` is the loader's report of its result (R144, R159). -/
inductive HealthInput where
  | freeSpares (n : Nat)
  | lostLength (n : Nat)
  | lostOverflow
  | copyStates (a b : CopyState)
  | startup (failed : Bool) (free lost : Nat) (a b : CopyState)
  deriving DecidableEq, Repr, Inhabited

/-- The sixteen kinds of event record (Table 9-3). -/
inductive EventKind where
  | startup
  | relocQueued
  | relocDropped
  | relocDone
  | relocAbandoned
  | spareRetired
  | blockLost
  | linePoisoned
  | dataDiscarded
  | metadataCopyFailed
  | healthChanged
  | mediaTimeout
  | patrolPassDone
  | hostProtocolError
  | limitChanged
  | configChanged
  deriving DecidableEq, Repr, Inhabited

/-- The fields of an event record but its sequence, which the log gives it (R162, R163). -/
structure EventBody where
  kind : EventKind
  block : Option Nat := none
  spare : Option Nat := none
  line : Option Nat := none
  cause : Option RelocCause := none
  value : Nat
  deriving DecidableEq, Repr, Inhabited

/-- The four long commands (section 10.2). -/
inductive LongCode where
  | flush
  | relocateBlock
  | setLimit
  | setConfig
  deriving DecidableEq, Repr, Inhabited

/-- The results of a long command (R173; result codes of section 10.7). -/
inductive LongResult where
  | ok
  | dataLost
  | aborted
  | relocated
  | abandoned
  | lost
  | refused
  | dropped
  | failed
  deriving DecidableEq, Repr, Inhabited

/-! ## The commands -/

/-- One constructor per row of spec/opcode_table.json, with the row's operands. A management frame carries its
sequence byte and its parameter bytes as they crossed the link (R169, Table 10-6). -/
inductive Instr where
  /-- POWER_ON_RESET: the power-on reset input is asserted (R16). -/
  | powerOnReset
  /-- POWER_ON_RESET_RELEASE: the input is released with the straps at this value (R139, R185). -/
  | powerOnResetRelease (straps : Fin 4)
  /-- SUPPLY_FALL (R186). -/
  | supplyFall
  /-- SUPPLY_RESTORATION: the supply returns with the straps at this value (R186). -/
  | supplyRestoration (straps : Fin 4)
  /-- HOST_LINK_RESET_ASSERT (R84). -/
  | hostLinkResetAssert
  /-- HOST_LINK_RESET_RELEASE (R85). -/
  | hostLinkResetRelease
  /-- READ request of the line address, presented with this tag (R79). -/
  | read (tag : Fin 32) (addr : Nat)
  /-- WRITE request (R73). -/
  | write (tag : Fin 32) (addr : Nat) (data : Line) (mask : Mask)
  /-- BARRIER request (R75). -/
  | barrier (tag : Fin 8)
  /-- RESPONSE_TAKEN (R68). -/
  | responseTaken
  /-- MEDIA_ANSWER: the array's answer with the identifier it carries (R8). -/
  | mediaAnswer (id : BitVec 16) (answer : ArrayAnswer) (order : AnswerOrder)
  /-- MEDIA_TIMEOUT: the deadline of the operation in progress passes (R14). -/
  | mediaTimeout (order : AnswerOrder) (event : TimeoutOrder)
  /-- HOST_READ_ANSWER: the host port takes the answer delivered to it (R81). -/
  | hostReadAnswer
  /-- RMW_READ_ANSWER (R51). -/
  | rmwReadAnswer
  /-- DRAIN_PROGRAM_ANSWER (R52, R53). -/
  | drainProgramAnswer
  /-- COPY_READ_ANSWER (R112). -/
  | copyReadAnswer
  /-- COPY_PROGRAM_ANSWER (R113). -/
  | copyProgramAnswer
  /-- COMMIT_PROGRAM_ANSWER (R134). -/
  | commitProgramAnswer
  /-- PATROL_READ_ANSWER (R150). -/
  | patrolReadAnswer
  /-- LOADER_READ_ANSWER (R140). -/
  | loaderReadAnswer
  /-- AGE_DEADLINE_EXPIRY of the staging entry with this acceptance order (R48). -/
  | ageDeadlineExpiry (order : Nat)
  /-- PATROL_EXPIRY (R148). -/
  | patrolExpiry
  /-- ENGINE_TAKE_HEAD (R109). -/
  | engineTakeHead
  /-- PREPARE_END: the buffer's report of the end of the drain program in progress at the mark (R111). -/
  | prepareEnd (result : ProgramResult)
  /-- RELOCATION_RELEASE (R116). -/
  | relocationRelease
  /-- RELOC_REQUEST for a block (R102). -/
  | relocRequest (block : Nat) (cause : RelocCause)
  /-- COMMIT_REQUEST by a party (R131). -/
  | commitRequest (party : CommitParty)
  /-- WATCH_REPORT of a CORRECTED outcome of a block (R90). -/
  | watchReport (block bits : Nat)
  /-- LOST_BLOCK_ADDITION (R34). -/
  | lostBlockAddition (block : Nat) (requester : LostRequester)
  /-- HEALTH_REPORT (R156). -/
  | healthReport (input : HealthInput)
  /-- EVENT_APPEND (R163). -/
  | eventAppend (body : EventBody)
  /-- STAGING_FAILED_DISCARD: the buffer takes the FAILED notice (R62). -/
  | stagingFailedDiscard
  /-- HOST_PORT_FAILED (R86). -/
  | hostPortFailed
  /-- WATCH_TABLE_FAILED (R98). -/
  | watchTableFailed
  /-- RELOCATION_FAILED (R123). -/
  | relocationFailed
  /-- COMMIT_UNIT_STOP (R138). -/
  | commitUnitStop
  /-- PATROL_HALT (R154). -/
  | patrolHalt
  /-- LOADER_FAILED_NOTICE (R143). -/
  | loaderFailedNotice
  /-- LONG_COMMAND_ENDING: the link takes an owning block's report of an ending (R173). -/
  | longCommandEnding (code : LongCode) (result : LongResult) (spare : Nat)
  /-- DAMAGED_FRAME: the bytes of a damaged frame (R169). -/
  | damagedFrame (frame : List Byte)
  /-- UNKNOWN_COMMAND: a frame whose code is not in Table 10-7 (R171). -/
  | unknownCommand (code seq : Byte) (params : List Byte)
  /-- GET_STATUS (R175). -/
  | getStatus (seq : Byte) (params : List Byte)
  /-- GET_RESULT (R172). -/
  | getResult (seq : Byte) (params : List Byte)
  /-- GET_CONFIG (R176). -/
  | getConfig (seq : Byte) (params : List Byte)
  /-- READ_LOG (R164). -/
  | readLog (seq : Byte) (params : List Byte)
  /-- READ_REMAP (R177). -/
  | readRemap (seq : Byte) (params : List Byte)
  /-- READ_LOST (R177). -/
  | readLost (seq : Byte) (params : List Byte)
  /-- READ_WATCH (R177). -/
  | readWatch (seq : Byte) (params : List Byte)
  /-- READ_QUEUE (R177). -/
  | readQueue (seq : Byte) (params : List Byte)
  /-- ACK_ALERT (R178). -/
  | ackAlert (seq : Byte) (params : List Byte)
  /-- ABORT (R174). -/
  | abort (seq : Byte) (params : List Byte)
  /-- SET_WRITE_MODE: SET_CONFIG, item 1; also a SET_CONFIG frame of another length or of an item not in Table 10-4 (log 19). -/
  | setWriteMode (seq : Byte) (params : List Byte)
  /-- SET_DRAIN_THRESHOLD: SET_CONFIG, item 2 (R179). -/
  | setDrainThreshold (seq : Byte) (params : List Byte)
  /-- SET_ENTRY_AGE_TIMER: SET_CONFIG, item 3 (R179). -/
  | setEntryAgeTimer (seq : Byte) (params : List Byte)
  /-- SET_CORRECTION_THRESHOLD: SET_CONFIG, item 4 (R179, R94). -/
  | setCorrectionThreshold (seq : Byte) (params : List Byte)
  /-- SET_PATROL_ENABLE: SET_CONFIG, item 5 (R179, R153). -/
  | setPatrolEnable (seq : Byte) (params : List Byte)
  /-- SET_PATROL_INTERVAL: SET_CONFIG, item 6 (R179, R153). -/
  | setPatrolInterval (seq : Byte) (params : List Byte)
  /-- SET_LIMIT (R180). -/
  | setLimit (seq : Byte) (params : List Byte)
  /-- FREEZE_LIMIT (R181). -/
  | freezeLimit (seq : Byte) (params : List Byte)
  /-- PATROL_STOP: PATROL_CONTROL, action 0; also a PATROL_CONTROL frame of another length or action (log 19). -/
  | patrolStop (seq : Byte) (params : List Byte)
  /-- PATROL_START: PATROL_CONTROL, action 1 (R182). -/
  | patrolStart (seq : Byte) (params : List Byte)
  /-- PATROL_RESTART: PATROL_CONTROL, action 2 (R182). -/
  | patrolRestart (seq : Byte) (params : List Byte)
  /-- FLUSH (R183). -/
  | flush (seq : Byte) (params : List Byte)
  /-- RELOCATE_BLOCK (R184). -/
  | relocateBlock (seq : Byte) (params : List Byte)
  deriving DecidableEq, Repr, Inhabited

end Sys2Proof
end

