-- ==== Sys2Proof/Config.lean ====
section
/-! DEFINITION. The fixed figures of the part (Table 0-1, Table 0-2a and the chapters' own) and the values the manual
leaves open, as constants without a body. -/

namespace Sys2Proof.Config

/-- Lines of a block (Table 0-1). -/
def linesPerBlock : Nat := 64

/-- Physical blocks of the array (Table 0-1). -/
def physicalBlocks : Nat := 262144

/-- First physical block of the data region (Table 0-2a). -/
def dataBase : Nat := 16

/-- Blocks of the data region (Table 0-2a). -/
def dataBlocks : Nat := 260080

/-- Physical block of spare 0 (Table 0-1). -/
def spareBase : Nat := 260096

/-- Number of spares (Table 0-1). -/
def spareCount : Nat := 2048

/-- Most entries of the primary defect list (R24). -/
def maxDefects : Nat := 512

/-- Lines of a field image (R126). -/
def imageLines : Nat := 448

/-- First physical block of a field copy (R127). -/
def copyBase : CopyId → Nat
  | .a => 2
  | .b => 9

/-- Most staging entries (R39). -/
def stagingEntries : Nat := 64

/-- Occupancy of the urgent watermark (R12). -/
def urgentWatermark : Nat := 56

/-- Host slots of the barrier list (R56). -/
def hostBarrierSlots : Nat := 4

/-- Most responses of the response queue and of the reserve (R68). -/
def responseRoom : Nat := 80

/-- Most watch entries (R88). -/
def watchEntries : Nat := 32

/-- Most entries of the relocation queue (R100). -/
def queueEntries : Nat := 16

/-- Queue length from which a normal request is refused (R104). -/
def normalReserve : Nat := 12

/-- Most blocks of the lost block list (R34). -/
def lostBlocks : Nat := 64

/-- Records of the event log ring (R162). -/
def logRecords : Nat := 32

/-- Highest value of a health counter (R160). -/
def counterMax : Nat := 4294967295

/-- The media timeout in µs (R14). -/
def mediaTimeoutUs : Nat := 2000

/-- The defaults of the persistent configuration record (Table 7-2). -/
def defaultSettings : Settings :=
  { writeMode := 0, drainThreshold := 16, ageTimer := 20, corrThreshold := 8, patrolEnable := 1, patrolInterval := 100 }

/-- The manufacturing record written when this array was made (R125). Every array has its own: a constant without a
body (log 12). -/
opaque mfgRecord : MfgRecord

/-- The bytes of a line of a manufacturing record or field image, whose encoding section 0.7 leaves out (log 11). -/
opaque metadataBytes : LineContent → Line

/-- What a read of a line returns whose content the array does not vouch for (R5): a free value, fresh at each `n`
(log 10). -/
opaque unvouchedLine : Nat → Line × Bool

/-- A choice among several orders the manual leaves open (R58, R77): a free value, fresh at each `n` (log 15). -/
opaque freeChoice : Nat → Nat

/-- What a read is taken to have answered when the answer that carries its identifier is a program's (R15): a free value, fresh at
each `n` (log 18). -/
opaque freeRead : Nat → ArrayOutcome × LineContent × Bool

/-- How a program is taken to have ended when the answer that carries its identifier is a read's (R15): a free value, fresh at
each `n` (log 18). -/
opaque freeResult : Nat → ProgramResult

end Sys2Proof.Config
end

