-- ==== Sys2Proof/Machine/State.lean ====
section
/-! DEFINITION. The state of the part, one record per owner of Table 0-2, and its value after a power-on reset. -/

namespace Sys2Proof.Machine

/-- No command stops with a fault: the rules give every command an effect in every state, so this type is empty. Safe. -/
inductive Fault where
  deriving DecidableEq, Repr

/-- Why a command has no meaning. -/
inductive Refusal where
  /-- The command has no meaning in this model yet. Raised by an arm of `exec` only; none raises it now. Safe. -/
  | notModelled (mnemonic : String)
  deriving DecidableEq, Repr

/-! ## Pins -/

/-- The reset inputs, the supply and the sampled straps (section 0.1, R185, R186). -/
structure Pins where
  /-- The power-on reset input is asserted. -/
  porInput : Bool
  /-- The core supply is below its operating level (R186). -/
  supplyLow : Bool
  /-- The host link reset input is asserted (R83). -/
  linkReset : Bool
  /-- The strap value s sampled at the last release; the link address is 88 + s (R185). -/
  strap : Fin 4
  deriving DecidableEq, Repr

/-! ## Media port and array -/

/-- The two media operations (section 1.2, section 1.3). -/
inductive OpKind where
  | read
  | program
  deriving DecidableEq, Repr

/-- The requester of a media operation: the five classes of Table 1-1 and the start-up loader. -/
inductive Requester where
  /-- Class 1. -/
  | hostRead
  /-- Class 2. -/
  | commit
  /-- Class 3. -/
  | relocation
  /-- Class 4. -/
  | drain
  /-- Class 5. -/
  | patrol
  | loader
  deriving DecidableEq, Repr

/-- The operation record (R6). -/
structure OpRecord where
  id : BitVec 16
  kind : OpKind
  requester : Requester
  pblock : Nat
  line : Nat
  block : Option Nat
  spare : Option Nat
  /-- The deadline, in µs after issue. -/
  deadline : Nat
  deriving DecidableEq, Repr

/-- The media port controller (R6): IDLE while it holds no record, BUSY while it holds one. -/
structure MediaPort where
  record : Option OpRecord
  nextId : BitVec 16
  deriving DecidableEq, Repr

/-- What the array holds at one line: content it vouches for with the poison flag (R4, R5), or a line whose program
ended FAIL or was cut short (R5). -/
inductive Cell where
  | vouched (content : LineContent) (poison : Bool)
  | unvouched
  deriving DecidableEq, Repr

/-- An operation as sent to the array (R7, step 5); `payload` is the content and poison flag of a program. -/
structure ArrayOp where
  id : BitVec 16
  kind : OpKind
  pblock : Nat
  line : Nat
  payload : Option (LineContent × Bool)
  deriving DecidableEq, Repr

/-- The array behind the media port: its lines, keyed by physical block × 64 + line offset in rising order and listing no
line that holds what an unlisted one reads as, and the operation it has begun. -/
structure ArrayState where
  cells : List (Nat × Cell)
  op : Option ArrayOp
  deriving DecidableEq, Repr

/-- An answer in the form delivered to the requester (Table 1-2). -/
inductive Delivered where
  | clean (content : LineContent) (poison : Bool)
  | corrected (bits : Nat) (content : LineContent) (poison : Bool)
  | uncorrectable (poison : Bool)
  | program (result : ProgramResult)
  deriving DecidableEq, Repr

/-- A delivered answer that its requester has not taken yet: the copy of the record and the answer (R8, R9). -/
structure Delivery where
  record : OpRecord
  answer : Delivered
  deriving DecidableEq, Repr

/-! ## Address translation unit -/

/-- The state of a remap entry; a PENDING entry has a prior spare or none and a copy complete mark (R25). -/
inductive RemapState where
  | inUse
  | pending (prior : Option Nat) (copyComplete : Bool)
  deriving DecidableEq, Repr

/-- A remap entry but its logical block, which is its key in the table (R25). -/
structure RemapEntry where
  spare : Nat
  state : RemapState
  deriving DecidableEq, Repr

/-- The address translation unit (Chapter 2). `remap` is keyed by logical block; `spares` is keyed by spare index and lists
the spares that are not FREE; both keys rise. -/
structure Xlat where
  defects : List Nat
  p : Nat
  nb : Nat
  remap : List (Nat × RemapEntry)
  spares : List (Nat × SpareState)
  lost : List Nat
  el : Nat
  elp : Nat
  frozen : Bool
  deriving DecidableEq, Repr

/-! ## Write staging buffer -/

/-- OPEN, SEALED or ISSUED (R40). -/
inductive EntryState where
  | opened
  | sealed
  | issued
  deriving DecidableEq, Repr

/-- The hold of a staging entry (R39). -/
inductive Hold where
  | none
  | migrating
  | srcFailed
  deriving DecidableEq, Repr

/-- A staging entry (R39). Its age deadline is `ageTimer` units of 0.1 ms after its allocation; `agePassed` says that
it has passed (R48, log 8). -/
structure Entry where
  line : Nat
  data : Line
  mask : Mask
  epoch : Nat
  state : EntryState
  hold : Hold
  order : Nat
  ageTimer : Nat
  agePassed : Bool
  tags : List Nat
  merged : Option (Line × Bool)
  deriving DecidableEq, Repr

/-- A host record of the barrier list (R56). -/
structure BarrierRecord where
  tag : Nat
  epoch : Nat
  failFlag : Bool
  deriving DecidableEq, Repr

/-- The FLUSH record (R59). -/
structure FlushRecord where
  epoch : Nat
  failFlag : Bool
  deriving DecidableEq, Repr

/-- BACK or THROUGH (R45). -/
inductive WriteMode where
  | back
  | through
  deriving DecidableEq, Repr

/-- The buffer's operation in progress: the acceptance order of the entry it is for, and its kind (R49). -/
structure DrainOp where
  order : Nat
  kind : OpKind
  deriving DecidableEq, Repr

/-- The write staging buffer (Chapter 3). `entries` stands in acceptance order. -/
structure Staging where
  entries : List Entry
  epoch : Nat
  nextOrder : Nat
  hostSlots : List BarrierRecord
  flushSlot : Option FlushRecord
  mode : WriteMode
  threshold : Nat
  ageTimer : Nat
  /-- Fence counts above 0, keyed by line address (R47). -/
  fences : List (Nat × Nat)
  /-- The block marked migrating at the buffer, from the mark to the release or abandonment (R43, R54, R55). -/
  migrating : Option Nat
  drainOp : Option DrainOp
  deriving DecidableEq, Repr

/-! ## Host port -/

/-- A host request (Table 4-1). -/
inductive HostRequest where
  | read (tag addr : Nat)
  | write (tag addr : Nat) (data : Line) (mask : Mask)
  | barrier (tag : Nat)
  deriving DecidableEq, Repr

/-- The statuses of READ_RESULT (Table 4-3). -/
inductive ReadStatus where
  | ok (data : Line)
  | poison
  | range
  | tagError
  deriving DecidableEq, Repr

/-- The statuses of WRITE_ACK (Table 4-3). -/
inductive WriteStatus where
  | accepted
  | durable
  | range
  | mediaFail
  | malformed
  | tagError
  deriving DecidableEq, Repr

/-- The statuses of BARRIER_DONE (Table 4-3). -/
inductive BarrierStatus where
  | durable
  | fail
  | tagError
  deriving DecidableEq, Repr

/-- A response (Table 4-1). -/
inductive Response where
  | readResult (tag : Nat) (status : ReadStatus)
  | writeAck (tag : Nat) (status : WriteStatus)
  | barrierDone (tag : Nat) (status : BarrierStatus)
  deriving DecidableEq, Repr

/-- A read record of the host read queue (R78); `issued` is ISSUED, else QUEUED. -/
structure ReadRecord where
  tag : Nat
  addr : Nat
  snapshot : Line
  coverage : Mask
  issued : Bool
  deriving DecidableEq, Repr

/-- The ready state (R83). -/
inductive ReadyState where
  | starting
  | opened
  | inReset
  | recovering
  deriving DecidableEq, Repr

/-- The host port (Chapter 4). -/
structure HostPort where
  /-- The request at the head of the channel and, behind it, the requests the memory controller sent after it, which
  wait on its side (R66, log 14). -/
  channel : List HostRequest
  responses : List Response
  /-- OUTSTANDING read tags, each with the line address of the request that holds it (R70). -/
  readTags : List (Nat × Nat)
  /-- OUTSTANDING write tags, each with the line address of the request that holds it (R70). -/
  writeTags : List (Nat × Nat)
  /-- OUTSTANDING barrier tags, each with the epoch closed of its record (R70). -/
  barrierTags : List (Nat × Nat)
  queue : List ReadRecord
  ready : ReadyState
  /-- The line of the abandoned read, when the abandoned-read count is 1 (R83, R84). -/
  abandoned : Option Nat
  deriving DecidableEq, Repr

/-! ## Error watch table -/

/-- A watch entry; its recency position is its place in the table (R88). -/
structure WatchEntry where
  block : Nat
  count : Nat
  lastBits : Nat
  deriving DecidableEq, Repr

/-- The error watch table (Chapter 5); position 0 first. `failed`: the FAILED notice has been taken (R98, log 16). -/
structure Watch where
  entries : List WatchEntry
  threshold : Nat
  failed : Bool
  deriving DecidableEq, Repr

/-! ## Relocation queue and engine -/

/-- An entry of the relocation queue; its class is the list it stands in (R100). -/
structure QueueEntry where
  block : Nat
  cause : RelocCause
  /-- The requester is management. -/
  byManagement : Bool
  deriving DecidableEq, Repr

/-- The engine states (Table 6-2). -/
inductive EngineState where
  | idle
  | prepare
  | copy
  | commitWait
  | release
  deriving DecidableEq, Repr

/-- The commit purpose (R108). -/
inductive CommitPurpose where
  | switch
  | lost
  deriving DecidableEq, Repr

/-- The in-flight relocation record (R108). -/
structure RelocRecord where
  block : Nat
  cause : RelocCause
  byManagement : Bool
  source : Option Nat
  spare : Option Nat
  attempt : Nat
  cursor : Nat
  buffer : Option (Line × Bool)
  poisoned : Nat
  srcFailed : Bool
  purpose : Option CommitPurpose
  deriving DecidableEq, Repr

/-- The relocation queue, urgent class and normal class oldest first, and the relocation engine (Chapter 6).
`stepOut`: an operation of the engine is issued and its answer not yet taken. `failed`: the FAILED notice has been
taken (R123, log 16). -/
structure Reloc where
  urgent : List QueueEntry
  normal : List QueueEntry
  engine : EngineState
  record : Option RelocRecord
  stepOut : Bool
  failed : Bool
  deriving DecidableEq, Repr

/-! ## Metadata commit unit -/

/-- The commit being written (R130, R132). -/
structure Writing where
  target : CopyId
  step : Nat
  image : FieldImage
  switch : Option Nat
  deriving DecidableEq, Repr

/-- A waiter; `current` when it is bound to the image being written, else it is bound to the next capture (R131). -/
structure Waiter where
  party : CommitParty
  current : Bool
  deriving DecidableEq, Repr

/-- The metadata commit unit (R130). `progOut`: a program of the unit is issued and its answer not yet taken. -/
structure CommitUnit where
  copyA : CopyState
  copyB : CopyState
  newestSeq : Nat
  lastSeq : Nat
  holder : Option CopyId
  writing : Option Writing
  progOut : Bool
  stopped : Bool
  followUp : Bool
  waiters : List Waiter
  config : Settings
  deriving DecidableEq, Repr

/-! ## Start-up loader -/

/-- The start-up states (Table 7-4). -/
inductive StartupState where
  | loadingMfg
  | loadingField
  | ready
  | failed
  deriving DecidableEq, Repr

/-- What the loader is reading, or that it waits on the first-start commit (R140, R141, R143). -/
inductive LoaderTask where
  | m0
  | m1
  | fieldA
  | fieldB
  | firstStart
  deriving DecidableEq, Repr

/-- The class of a field copy (R128). -/
inductive CopyClass where
  | blank
  | invalid
  | valid (image : FieldImage)
  deriving DecidableEq, Repr

/-- The start-up loader (section 7.5). `mfg` and `image` are the record and the image that every line read so far of the copy
belongs to, none when the lines do not agree; `readOut`: a read is issued and its answer not yet taken. -/
structure Loader where
  state : StartupState
  task : LoaderTask
  line : Nat
  mfg : Option MfgRecord
  image : Option FieldImage
  classA : Option CopyClass
  readOut : Bool
  deriving DecidableEq, Repr

/-! ## Patrol scanner -/

/-- RUN or HOLD (R146). -/
inductive PatrolControl where
  | run
  | hold
  deriving DecidableEq, Repr

/-- The line of the outstanding patrol read, and whether it is issued (R146). -/
structure PatrolRead where
  block : Nat
  line : Nat
  issued : Bool
  deriving DecidableEq, Repr

/-- The patrol scanner (R146). `timer` is the interval the deadline in force was set with. -/
structure Patrol where
  enable : Bool
  interval : Nat
  control : PatrolControl
  block : Nat
  line : Nat
  passCount : Nat
  timer : Option Nat
  outstanding : Option PatrolRead
  deriving DecidableEq, Repr

/-! ## Health block and event log -/

/-- The health states (section 9.1). -/
inductive Health where
  | normal
  | lowSpares
  | degraded
  | failed
  deriving DecidableEq, Repr

/-- The health state, the latest inputs and the counters (Chapter 9). `startup` is whether start-up FAILED, none
before its result. -/
structure HealthBlock where
  state : Health
  free : Nat
  lost : Nat
  overflow : Bool
  copyA : CopyState
  copyB : CopyState
  startup : Option Bool
  counters : Counters
  deriving DecidableEq, Repr

/-- An event record (R162). -/
structure EventRecord where
  sequence : Nat
  body : EventBody
  deriving DecidableEq, Repr

/-- The event log, oldest record first, its next sequence, and the alert-pending flag, which drives ALERT (R162, R166). -/
structure EventLog where
  records : List EventRecord
  next : Nat
  alert : Bool
  deriving DecidableEq, Repr

/-! ## Management link -/

/-- The readable response (section 10): none, the cached response, or a BADCHECK response with this sequence echo. -/
inductive Readable where
  | none
  | cached
  | badCheck (echo : Byte)
  deriving DecidableEq, Repr

/-- The long command record; PENDING while `ended` is none (R172). -/
structure LongRecord where
  code : LongCode
  seq : Byte
  ended : Option LongResult
  spare : Nat
  deriving DecidableEq, Repr

/-- The management link (Chapter 10). -/
structure Link where
  lastSeq : Option Byte
  cached : List Byte
  readable : Readable
  long : Option LongRecord
  deriving DecidableEq, Repr

/-! ## The whole part -/

/-- The state of the part, and the queue of waiting commands. -/
structure State where
  pins : Pins
  port : MediaPort
  array : ArrayState
  xlat : Xlat
  staging : Staging
  host : HostPort
  watch : Watch
  reloc : Reloc
  commit : CommitUnit
  loader : Loader
  patrol : Patrol
  health : HealthBlock
  log : EventLog
  link : Link
  /-- Answers delivered and not yet taken by their requesters (R8, R9; log 1). -/
  deliveries : List Delivery
  /-- Hand-overs from one block to another, not yet taken, oldest first (log 1). -/
  posted : List Instr
  /-- Counts the free values used so far (log 10, log 15). -/
  freeCount : Nat
  /-- The commands waiting, first in first out. -/
  pending : List Instr
  deriving DecidableEq, Repr

/-! ## After a power-on reset -/

/-- The media port controller after a power-on reset (R6, R16). -/
def resetPort : MediaPort := { record := none, nextId := 0 }

/-- The translation unit after a power-on reset (R38). -/
def resetXlat : Xlat :=
  { defects := [], p := 0, nb := 0, remap := [], spares := [], lost := [], el := 0, elp := 0, frozen := false }

/-- The staging buffer after a power-on reset (R64, R63). -/
def resetStaging : Staging :=
  { entries := [], epoch := 0, nextOrder := 0, hostSlots := [], flushSlot := none, mode := .back, threshold := 16,
    ageTimer := 20, fences := [], migrating := none, drainOp := none }

/-- The host port after a power-on reset (R83). -/
def resetHost : HostPort :=
  { channel := [], responses := [], readTags := [], writeTags := [], barrierTags := [], queue := [], ready := .starting,
    abandoned := none }

/-- The watch table after a power-on reset (R98). -/
def resetWatch : Watch := { entries := [], threshold := 8, failed := false }

/-- The relocation queue and engine after a power-on reset (R124). -/
def resetReloc : Reloc :=
  { urgent := [], normal := [], engine := .idle, record := none, stepOut := false, failed := false }

/-- The commit unit after a power-on reset (R130). -/
def resetCommit : CommitUnit :=
  { copyA := .ok, copyB := .ok, newestSeq := 0, lastSeq := 0, holder := none, writing := none, progOut := false,
    stopped := false, followUp := false, waiters := [], config := Config.defaultSettings }

/-- The loader after a power-on reset (R139). -/
def resetLoader : Loader :=
  { state := .loadingMfg, task := .m0, line := 0, mfg := none, image := none, classA := none, readOut := false }

/-- The patrol scanner after a power-on reset (R146). -/
def resetPatrol : Patrol :=
  { enable := true, interval := 100, control := .run, block := 0, line := 0, passCount := 0, timer := none,
    outstanding := none }

/-- Five counters at 0 (R161). -/
def zeroCounters : Counters :=
  { relocationsCompleted := 0, sparesRetired := 0, linesPoisoned := 0, uncorrectableSeen := 0, programFailuresSeen := 0 }

/-- The health block after a power-on reset (R159, R161). -/
def resetHealth : HealthBlock :=
  { state := .normal, free := 2048, lost := 0, overflow := false, copyA := .ok, copyB := .ok, startup := none,
    counters := zeroCounters }

/-- The event log after a power-on reset (R167). -/
def resetLog : EventLog := { records := [], next := 1, alert := false }

/-- The management link after a power-on reset (R168). -/
def resetLink : Link := { lastSeq := none, cached := [], readable := .none, long := none }

/-- The part as a power-on reset leaves it, the input still asserted, before an array as it was made (log 12, log 13). -/
def State.reset : State :=
  { pins := { porInput := true, supplyLow := false, linkReset := false, strap := 0 }
    port := resetPort
    array := { cells := [], op := none }
    xlat := resetXlat
    staging := resetStaging
    host := resetHost
    watch := resetWatch
    reloc := resetReloc
    commit := resetCommit
    loader := resetLoader
    patrol := resetPatrol
    health := resetHealth
    log := resetLog
    link := resetLink
    deliveries := []
    posted := []
    freeCount := 0
    pending := [] }

end Sys2Proof.Machine
end

