-- ==== Sys2Proof/Machine/Tables.lean ====
section
/-! DEFINITION. Operations on tables kept in rising order of key, on rising lists of numbers, and on bytes. -/

namespace Sys2Proof.Machine

/-! ## Tables in rising order of key -/

/-- The value at key `k`, none when the table has no such key. -/
def tableGet {α : Type} : List (Nat × α) → Nat → Option α
  | [], _ => none
  | (j, a) :: rest, k => if j = k then some a else tableGet rest k

/-- The table with key `k` set to `a`, in rising order of key. -/
def tableSet {α : Type} : List (Nat × α) → Nat → α → List (Nat × α)
  | [], k, a => [(k, a)]
  | (j, b) :: rest, k, a =>
    if k < j then (k, a) :: (j, b) :: rest
    else if k = j then (k, a) :: rest
    else (j, b) :: tableSet rest k a

/-- The table without key `k`. -/
def tableErase {α : Type} (t : List (Nat × α)) (k : Nat) : List (Nat × α) := t.filter (fun x => x.1 != k)

/-- The keys of the table rise strictly: the canonical form. -/
def tableSorted {α : Type} : List (Nat × α) → Bool
  | [] => true
  | [_] => true
  | (j, _) :: (k, b) :: rest => decide (j < k) && tableSorted ((k, b) :: rest)

/-! ## Rising lists of numbers -/

/-- The list with `n` inserted in rising order, without a duplicate (R24, R34). -/
def insertRising : List Nat → Nat → List Nat
  | [], n => [n]
  | m :: rest, n => if n < m then n :: m :: rest else if n = m then m :: rest else m :: insertRising rest n

/-- The list rises strictly: in ascending order without duplicates. -/
def rising : List Nat → Bool
  | [] => true
  | [_] => true
  | m :: n :: rest => decide (m < n) && rising (n :: rest)

/-- The lowest number at or above `c` that is not a key, for keys in rising order (R32). -/
def lowestAbsent {α : Type} : List (Nat × α) → Nat → Nat
  | [], c => c
  | (j, _) :: rest, c => if j = c then lowestAbsent rest (c + 1) else c

/-! ## Lines and bytes -/

/-- `below` with the bytes of `upper` placed over it at the positions in the mask (R42, R46, R51, R81). -/
def overlay (mask : Mask) (upper below : Line) : Line :=
  Vector.ofFn fun i => if mask.getLsbD i.val then upper[i] else below[i]

/-- The bytes of a line's content; those of a metadata line are the encoding section 0.7 leaves out (log 11). -/
def contentBytes : LineContent → Line
  | .bytes l => l
  | c => Config.metadataBytes c

/-- `n` in `k` bytes, least significant first (section 10.7). -/
def leBytes : Nat → Nat → List Byte
  | 0, _ => []
  | k + 1, n => BitVec.ofNat 8 n :: leBytes k (n / 256)

/-- The number that bytes hold, least significant first (section 10.7). -/
def leNat : List Byte → Nat
  | [] => 0
  | b :: rest => b.toNat + 256 * leNat rest

/-- `k` steps of the CRC-8 register, most significant bit first, generator x⁸ + x² + x + 1 (section 10.7). -/
def crcShift : Nat → Byte → Byte
  | 0, c => c
  | k + 1, c => crcShift k (if c.getLsbD 7 then (c <<< 1) ^^^ 7#8 else c <<< 1)

/-- The CRC-8 of the bytes, continued from `c` (section 10.7). -/
def crc8From (c : Byte) : List Byte → Byte
  | [] => c
  | b :: rest => crc8From (crcShift 8 (c ^^^ b)) rest

/-- The CRC-8 of the bytes, initial value 0 (section 10.7). -/
def crc8 (bytes : List Byte) : Byte := crc8From 0 bytes

/-! ## A choice the manual leaves open -/

/-- The list in an order the manual leaves open: at each place a free choice names the next element (log 15). The first
argument is the list's length. -/
def freeOrder {α : Type} : Nat → Nat → List α → List α
  | 0, _, l => l
  | _, _, [] => []
  | _, _, [x] => [x]
  | n + 1, c, x :: y :: rest =>
    let l := x :: y :: rest
    let i := Config.freeChoice c % l.length
    l[i]?.toList ++ freeOrder n (c + 1) (l.eraseIdx i)

end Sys2Proof.Machine
end

