-- ==== Sys2Proof/Machine/Ops.lean ====
section
/-! DEFINITION. The named operations that every block uses: one update per part of the state, hand-overs, event
records, counters, health reports, responses, tags and fences. -/

namespace Sys2Proof.Machine

/-! ## One update per part of the state -/

def State.setPins (s : State) (x : Pins) : State := { s with pins := x }
def State.setPort (s : State) (x : MediaPort) : State := { s with port := x }
def State.setArray (s : State) (x : ArrayState) : State := { s with array := x }
def State.setXlat (s : State) (x : Xlat) : State := { s with xlat := x }
def State.setStaging (s : State) (x : Staging) : State := { s with staging := x }
def State.setHost (s : State) (x : HostPort) : State := { s with host := x }
def State.setWatch (s : State) (x : Watch) : State := { s with watch := x }
def State.setReloc (s : State) (x : Reloc) : State := { s with reloc := x }
def State.setCommit (s : State) (x : CommitUnit) : State := { s with commit := x }
def State.setLoader (s : State) (x : Loader) : State := { s with loader := x }
def State.setPatrol (s : State) (x : Patrol) : State := { s with patrol := x }
def State.setHealth (s : State) (x : HealthBlock) : State := { s with health := x }
def State.setLog (s : State) (x : EventLog) : State := { s with log := x }
def State.setLink (s : State) (x : Link) : State := { s with link := x }
def State.setDeliveries (s : State) (x : List Delivery) : State := { s with deliveries := x }
def State.setPosted (s : State) (x : List Instr) : State := { s with posted := x }
def State.setFreeCount (s : State) (x : Nat) : State := { s with freeCount := x }
def State.setPending (s : State) (x : List Instr) : State := { s with pending := x }

/-! ## Hand-overs (log 1) -/

/-- A hand-over to another block, to be taken as a happening of its own. -/
def State.post (s : State) (c : Instr) : State := s.setPosted (s.posted ++ [c])

/-- The hand-over is taken: its oldest copy leaves the list, if it is there. -/
def State.unpost (s : State) (c : Instr) : State := s.setPosted (s.posted.erase c)

/-- The internal power-on reset holds: the input is asserted, or the supply is low (R186). -/
def State.inReset (s : State) : Bool := s.pins.porInput || s.pins.supplyLow

/-- `f`, unless the power-on reset holds, in which case nothing changes (log 3). -/
def State.whenUp (s : State) (f : State → State) : State := if s.inReset then s else f s

/-! ## Event log (R162, R163, R166) -/

/-- The alert class of Table 9-3. -/
def isAlertClass : EventKind → Bool
  | .relocAbandoned | .blockLost | .dataDiscarded | .metadataCopyFailed | .healthChanged | .mediaTimeout => true
  | .startup | .relocQueued | .relocDropped | .relocDone | .spareRetired | .linePoisoned | .patrolPassDone
  | .hostProtocolError | .limitChanged | .configChanged => false

/-- Appending one record (R163): it takes the next sequence, and overwrites the oldest record of a full ring. -/
def appendRecord (l : EventLog) (b : EventBody) : EventLog :=
  { records := (if l.records.length < Config.logRecords then l.records else l.records.drop 1) ++
      [{ sequence := l.next, body := b }]
    next := (l.next + 1) % 4294967296
    alert := l.alert || isAlertClass b.kind }

/-- A record is appended in the happening that makes it (log 5). -/
def State.append (s : State) (b : EventBody) : State := s.setLog (appendRecord s.log b)

/-! ## Health counters (R160) -/

/-- A counter raised by one; it stays at its highest value. -/
def countUp (n : Nat) : Nat := if n < Config.counterMax then n + 1 else n

/-- The counters are updated, unless the health state is FAILED, in which they are kept (R161, log 17). -/
def State.count (s : State) (f : Counters → Counters) : State :=
  if s.health.state = .failed then s
  else s.setHealth { s.health with counters := f s.health.counters }

/-- Relocations completed rises by one. -/
def countRelocation (c : Counters) : Counters := { c with relocationsCompleted := countUp c.relocationsCompleted }
/-- Spares retired rises by one. -/
def countRetired (c : Counters) : Counters := { c with sparesRetired := countUp c.sparesRetired }
/-- Lines poisoned rises by one. -/
def countPoisoned (c : Counters) : Counters := { c with linesPoisoned := countUp c.linesPoisoned }
/-- Uncorrectable outcomes seen rises by one. -/
def countUncorrectable (c : Counters) : Counters := { c with uncorrectableSeen := countUp c.uncorrectableSeen }
/-- Program failures seen rises by one. -/
def countProgramFailure (c : Counters) : Counters := { c with programFailuresSeen := countUp c.programFailuresSeen }

/-! ## Health state (R156 to R158) -/

/-- The code of a health state (Table 10-8), which is its place in the order of section 9.1. -/
def healthCode : Health → Nat
  | .normal => 0
  | .lowSpares => 1
  | .degraded => 2
  | .failed => 3

/-- The higher of two health states (R157). -/
def higherHealth (a b : Health) : Health := if healthCode a < healthCode b then b else a

/-- The state derived from the inputs: the highest state of Table 9-1 whose condition holds (R156). -/
def derivedHealth (h : HealthBlock) : Health :=
  if (h.copyA = .failed ∧ h.copyB = .failed) ∨ h.overflow = true ∨ h.startup = some true then .failed
  else if h.free = 0 ∨ h.lost ≠ 0 ∨ h.copyA = .failed ∨ h.copyB = .failed then .degraded
  else if h.free ≤ 128 then .lowSpares
  else .normal

/-- A report replaces the latest value of its input (R156, R159). -/
def applyInput (h : HealthBlock) : HealthInput → HealthBlock
  | .freeSpares n => { h with free := n }
  | .lostLength n => { h with lost := n }
  | .lostOverflow => { h with overflow := true }
  | .copyStates a b => { h with copyA := a, copyB := b }
  | .startup failed free lost a b =>
    { h with startup := some failed, free := free, lost := lost, copyA := a, copyB := b }

/-- The FAILED notices, in the order of the table of R158. -/
def failedNotices : List Instr :=
  [.stagingFailedDiscard, .hostPortFailed, .watchTableFailed, .relocationFailed, .commitUnitStop, .patrolHalt,
    .loaderFailedNotice]

/-- The health block takes a report (R156, R157): it recomputes the state, appends HEALTH_CHANGED when it rose, and on
entering FAILED sends the notices of R158. -/
def State.reportHealth (s : State) (i : HealthInput) : State :=
  let h := applyInput s.health i
  let new := higherHealth s.health.state (derivedHealth h)
  let s1 := s.setHealth { h with state := new }
  if new = s.health.state then s1
  else
    let s2 := s1.append { kind := .healthChanged, value := healthCode new }
    if new = .failed then s2.setPosted (s2.posted ++ failedNotices) else s2

/-! ## Responses, tags and fences -/

/-- The reserve (R68, R84): responses in the queue, outstanding tags, and one unit for an abandoned read. -/
def HostPort.reserve (h : HostPort) : Nat :=
  h.responses.length + h.readTags.length + h.writeTags.length + h.barrierTags.length + h.abandoned.toList.length

/-- A response enters the response queue (R68). -/
def State.respond (s : State) (r : Response) : State :=
  s.setHost { s.host with responses := s.host.responses ++ [r] }

/-- READ_RESULT for a queued read: the response enters the queue and the tag is freed (R70, R81). -/
def State.answerRead (s : State) (tag : Nat) (status : ReadStatus) : State :=
  s.setHost { s.host with
    responses := s.host.responses ++ [.readResult tag status]
    readTags := tableErase s.host.readTags tag }

/-- WRITE_ACK for a waiting write tag: the response enters the queue and the tag is freed (R74). -/
def State.answerWrite (s : State) (status : WriteStatus) (tag : Nat) : State :=
  s.setHost { s.host with
    responses := s.host.responses ++ [.writeAck tag status]
    writeTags := tableErase s.host.writeTags tag }

/-- WRITE_ACK for each tag, in the order of the list (R74). -/
def State.answerWrites (s : State) (status : WriteStatus) : List Nat → State
  | [] => s
  | t :: rest => (s.answerWrite status t).answerWrites status rest

/-- BARRIER_DONE for a completed record: the response enters the queue and the tag is freed (R77). -/
def State.answerBarrier (s : State) (tag : Nat) (status : BarrierStatus) : State :=
  s.setHost { s.host with
    responses := s.host.responses ++ [.barrierDone tag status]
    barrierTags := tableErase s.host.barrierTags tag }

/-- The fence count of a line (R47). -/
def fenceCount (st : Staging) (line : Nat) : Nat := (tableGet st.fences line).getD 0

/-- A fence is placed on a line: its count rises by one (R47). -/
def State.raiseFence (s : State) (line : Nat) : State :=
  s.setStaging { s.staging with fences := tableSet s.staging.fences line (fenceCount s.staging line + 1) }

/-- The end of a fenced read is reported: the line's count falls by one (R47). -/
def State.lowerFence (s : State) (line : Nat) : State :=
  let n := fenceCount s.staging line
  s.setStaging { s.staging with
    fences := if n ≤ 1 then tableErase s.staging.fences line else tableSet s.staging.fences line (n - 1) }

/-! ## Endings of long commands (R173) -/

/-- The link takes an ending: the PENDING record of that command becomes ENDED (R173); an ending that meets no such
record changes nothing (R174). -/
def State.endLong (s : State) (code : LongCode) (result : LongResult) (spare : Nat) : State :=
  match s.link.long with
  | some r =>
    if r.code = code ∧ r.ended = none then
      s.setLink { s.link with long := some { r with ended := some result, spare := spare } }
    else s
  | none => s

/-- A hand-over of an ending of this command to the link. -/
def endingOf (code : LongCode) : Instr → Bool
  | .longCommandEnding c _ _ => decide (c = code)
  | _ => false

/-- A PENDING command whose block stops ends FAILED (R123, R138), unless it waits on that block no longer: an ending of its own has
been handed to the link and is not yet taken. -/
def State.failLong (s : State) (code : LongCode) : State :=
  if s.posted.any (endingOf code) then s else s.endLong code .failed 0

/-- The long command PENDING at the link, if any (R171, R172). -/
def State.pendingLong (s : State) : Option LongCode :=
  match s.link.long with
  | some r => if r.ended = none then some r.code else none
  | none => none

/-- A hand-over of an ending to the link. -/
def isEnding : Instr → Bool
  | .longCommandEnding _ _ _ => true
  | _ => false

/-- The endings handed to the link in the happening that starts the command are taken in it (R172). -/
def State.takeEndings (s : State) : State :=
  match s.posted.find? isEnding with
  | some (.longCommandEnding code result spare) =>
    (s.unpost (.longCommandEnding code result spare)).endLong code result spare
  | _ => s

/-- The list in an order the manual leaves open; the choices used are counted (log 15). -/
def State.useOrder (s : State) (n : Nat) : State := s.setFreeCount (s.freeCount + n)

end Sys2Proof.Machine
end

