-- ==== Sys2Proof/Machine/Operands.lean ====
section
/-! DEFINITION. The forms operands take: line addresses, physical locations, the forms of a delivered answer, and
the numbers in the parameters of a management frame. -/

namespace Sys2Proof.Machine

/-! ## Line addresses (R18) -/

/-- The logical block of a line address. -/
def blockOf (addr : Nat) : Nat := addr / Config.linesPerBlock

/-- The line offset of a line address. -/
def offsetOf (addr : Nat) : Nat := addr % Config.linesPerBlock

/-- The logical block of a staging entry. -/
def Entry.block (e : Entry) : Nat := blockOf e.line

/-- The logical block of a read record. -/
def ReadRecord.block (r : ReadRecord) : Nat := blockOf r.addr

/-- The key of a line of the array: physical block × 64 + line offset. -/
def arrayKey (pblock line : Nat) : Nat := pblock * Config.linesPerBlock + line

/-- The physical block of a spare (Table 0-1). -/
def spareBlock (s : Nat) : Nat := Config.spareBase + s

/-- The spare index of a physical block of the spare region, else none (R6). -/
def spareOf (pblock : Nat) : Option Nat :=
  if Config.spareBase ≤ pblock then some (pblock - Config.spareBase) else none

/-! ## The image lines of a commit (R127) -/

/-- The image line that a write step programs. -/
def imageLineOf (step : Nat) : Nat := if step < 447 then step + 1 else 0

/-- The physical block of an image line of a copy. -/
def imageBlock (c : CopyId) (k : Nat) : Nat := Config.copyBase c + k / 64

/-! ## Delivered answers (Table 1-2) -/

/-- A line read as delivered. -/
def deliveredRead (o : ArrayOutcome) (content : LineContent) (poison : Bool) : Delivered :=
  match o with
  | .clean => .clean content poison
  | .corrected n =>
    if n = 0 then .clean content poison
    else if n ≤ 4 then .corrected n content poison
    else .uncorrectable poison
  | .uncorrectable => .uncorrectable poison

/-- An operation that timed out, as delivered (R14). -/
def deliveredTimeout : OpKind → Delivered
  | .read => .uncorrectable false
  | .program => .program .fail

/-- The content delivered: 64 zero bytes when UNCORRECTABLE. -/
def Delivered.content : Delivered → LineContent
  | .clean c _ => c
  | .corrected _ c _ => c
  | .uncorrectable _ => .bytes zeroLine
  | .program _ => .bytes zeroLine

/-- The 64 bytes delivered. -/
def Delivered.bytes (d : Delivered) : Line := contentBytes d.content

/-- The poison flag delivered. -/
def Delivered.poison : Delivered → Bool
  | .clean _ p => p
  | .corrected _ _ p => p
  | .uncorrectable p => p
  | .program _ => false

/-- The delivered outcome is UNCORRECTABLE. -/
def Delivered.isUncorrectable : Delivered → Bool
  | .uncorrectable _ => true
  | .clean _ _ => false
  | .corrected _ _ _ => false
  | .program _ => false

/-- The corrected-bit count of a delivered CORRECTED outcome. -/
def Delivered.correctedBits : Delivered → Option Nat
  | .corrected n _ _ => some n
  | .clean _ _ => none
  | .uncorrectable _ => none
  | .program _ => none

/-- The result of a delivered program answer; a read's answer counts as FAIL here and does not arise. -/
def Delivered.result : Delivered → ProgramResult
  | .program r => r
  | .clean _ _ => .fail
  | .corrected _ _ _ => .fail
  | .uncorrectable _ => .fail

/-- The delivered line is in the erased state (R2): CLEAN, poison flag clear, 64 bytes of value 255. -/
def Delivered.isErased : Delivered → Bool
  | .clean c p => decide (c = .bytes erasedLine) && !p
  | .corrected _ _ _ => false
  | .uncorrectable _ => false
  | .program _ => false

/-! ## Parameters of a management frame (Table 10-7) -/

/-- The parameter byte at a position, as a number; 0 past the end. -/
def paramByte (params : List Byte) (i : Nat) : Nat := (params.getD i 0).toNat

/-- The number in the `k` parameter bytes from position `i`, least significant first. -/
def paramNat (params : List Byte) (i k : Nat) : Nat := leNat ((params.drop i).take k)

/-! ## Codes (Table 6-1, Table 10-4, sections 6.9 and 10.7) -/

/-- The strength of a relocation cause (Table 6-1). -/
def causeStrength : RelocCause → Nat
  | .programFail => 3
  | .uncorrectable => 2
  | .corrThreshold => 1
  | .management => 1

/-- The class of a cause is urgent (Table 6-1). -/
def isUrgent : RelocCause → Bool
  | .programFail => true
  | .uncorrectable => true
  | .corrThreshold => false
  | .management => false

/-- The code of a cause (Table 10-7, READ_QUEUE). -/
def causeCode : RelocCause → Nat
  | .programFail => 0
  | .uncorrectable => 1
  | .corrThreshold => 2
  | .management => 3

/-- The write mode of a setting's number (Table 10-4). -/
def modeOf (n : Nat) : WriteMode := if n = 0 then .back else .through

/-- The number of a write mode (Table 10-4). -/
def modeCode : WriteMode → Nat
  | .back => 0
  | .through => 1

/-- The command code of a long command (Table 10-7). -/
def longCodeByte : LongCode → Nat
  | .setConfig => 16
  | .setLimit => 17
  | .flush => 32
  | .relocateBlock => 33

/-- The result codes of GET_RESULT (section 10.7). -/
def resultCode : LongResult → Nat
  | .ok => 0
  | .dataLost => 1
  | .aborted => 2
  | .relocated => 3
  | .abandoned => 4
  | .lost => 5
  | .refused => 6
  | .dropped => 7
  | .failed => 8

/-- The kind codes of an event record (Table 10-9). -/
def kindCode : EventKind → Nat
  | .startup => 1
  | .relocQueued => 2
  | .relocDropped => 3
  | .relocDone => 4
  | .relocAbandoned => 5
  | .spareRetired => 6
  | .blockLost => 7
  | .linePoisoned => 8
  | .dataDiscarded => 9
  | .metadataCopyFailed => 10
  | .healthChanged => 11
  | .mediaTimeout => 12
  | .patrolPassDone => 13
  | .hostProtocolError => 14
  | .limitChanged => 15
  | .configChanged => 16

/-- The value of a HOST_PROTOCOL_ERROR record: request kind, status, tag in bytes 12, 13 and 14 (Table 10-9). -/
def protocolErrorValue (kind status tag : Nat) : Nat := kind + 256 * status + 65536 * tag

/-- The value of a CONFIG_CHANGED record: item, persistent flag, and the value in bytes 14 and 15 (Table 10-9). -/
def configChangedValue (item flag value : Nat) : Nat := item + 256 * flag + 65536 * value

end Sys2Proof.Machine
end

