-- ==== Sys2Proof/Machine/Translation.lean ====
section
/-! DEFINITION. The address translation unit (Chapter 2): slip mapping, issue-time translation, the remap table, the
spare table and the rendering of a captured image. -/

namespace Sys2Proof.Machine

/-! ## Location (R20 to R22) -/

/-- The walk of R21 over the rest of the defect list, from a candidate. -/
def slipWalk : List Nat → Nat → Nat
  | [], c => c
  | d :: rest, c => if d ≤ c then slipWalk rest (c + 1) else c

/-- The slip location of a logical block (R21). -/
def slipLocation (x : Xlat) (block : Nat) : Nat := slipWalk x.defects (Config.dataBase + block)

/-- The physical block that issue-time translation names (R20). -/
def translate (x : Xlat) (block : Nat) : Nat :=
  match tableGet x.remap block with
  | some e =>
    match e.state with
    | .inUse => spareBlock e.spare
    | .pending (some t) _ => spareBlock t
    | .pending none _ => slipLocation x block
  | none => slipLocation x block

/-- The block is on the lost block list (R23, R34). -/
def Xlat.isLost (x : Xlat) (block : Nat) : Bool := x.lost.contains block

/-! ## Spare state table (R32, R33) -/

/-- The state of a spare. -/
def spareState (x : Xlat) (i : Nat) : SpareState := (tableGet x.spares i).getD .free

/-- The number of FREE spares. -/
def Xlat.freeSpares (x : Xlat) : Nat := Config.spareCount - x.spares.length

/-- The spare an allocation takes (R32): the FREE spare of lowest index, unless none is FREE or one is PENDING. -/
def spareToAllocate (x : Xlat) : Option Nat :=
  let c := lowestAbsent x.spares 0
  if c < Config.spareCount ∧ x.spares.all (fun e => e.2 != .pending) then some c else none

/-- The spare becomes PENDING and the new FREE count is reported to the health block (R32). -/
def State.takeSpare (s : State) (i : Nat) : State :=
  let x := { s.xlat with spares := tableSet s.xlat.spares i .pending }
  (s.setXlat x).post (.healthReport (.freeSpares x.freeSpares))

/-- The spare becomes RETIRED (R33): the counter rises and SPARE_RETIRED is appended with the block the spare served. -/
def State.retireSpare (s : State) (i block : Nat) : State :=
  let s1 := (s.setXlat { s.xlat with spares := tableSet s.xlat.spares i .retired }).count countRetired
  s1.append { kind := .spareRetired, block := some block, spare := some i, value := s1.health.counters.sparesRetired }

/-! ## The remap table through a relocation (R26 to R30) -/

/-- The source physical block of a relocation (R22). -/
def relocSource (x : Xlat) (block : Nat) : Nat :=
  match tableGet x.remap block with
  | some e => spareBlock e.spare
  | none => slipLocation x block

/-- The prior spare that a new PENDING entry of the block carries (R26). -/
def priorOf (x : Xlat) (block : Nat) : Option Nat := (tableGet x.remap block).map (·.spare)

/-- A spare is allocated and the block's PENDING entry is made (R26). -/
def State.makePending (s : State) (block i : Nat) : State :=
  let prior := priorOf s.xlat block
  let s1 := s.takeSpare i
  s1.setXlat { s1.xlat with
    remap := tableSet s1.xlat.remap block { spare := i, state := .pending prior false } }

/-- The PENDING status of the block's entry is removed (R30); an entry that is not PENDING stays. -/
def dropPending (x : Xlat) (block : Nat) : Xlat :=
  match tableGet x.remap block with
  | some e =>
    match e.state with
    | .pending (some t) _ => { x with remap := tableSet x.remap block { spare := t, state := .inUse } }
    | .pending none _ => { x with remap := tableErase x.remap block }
    | .inUse => x
  | none => x

/-- Copy complete is set in the block's PENDING entry (R28). -/
def markCopied (x : Xlat) (block : Nat) : Xlat :=
  match tableGet x.remap block with
  | some e =>
    match e.state with
    | .pending prior _ => { x with remap := tableSet x.remap block { e with state := .pending prior true } }
    | .inUse => x
  | none => x

/-- The unit takes a spare failure (R27): the failed spare retires; on a retry a new spare is allocated, and when none is
FREE, or on an abandonment, the entry is handled as R30 gives. Answers the new spare, if any. -/
def State.spareFailed (s : State) (block failed : Nat) (retry : Bool) : State × Option Nat :=
  let s1 := s.retireSpare failed block
  match if retry then spareToAllocate s1.xlat else none with
  | some u =>
    let s2 := s1.takeSpare u
    match tableGet s2.xlat.remap block with
    | some e =>
      (s2.setXlat { s2.xlat with remap := tableSet s2.xlat.remap block { e with spare := u } }, some u)
    | none => (s2, some u)
  | none => (s1.setXlat (dropPending s1.xlat block), none)

/-- The switch of a completed image is applied (R29): the block's PENDING entry and its spare become IN_USE, and a prior
spare retires. -/
def State.applySwitch (s : State) (block : Nat) : State :=
  match tableGet s.xlat.remap block with
  | some e =>
    match e.state with
    | .pending prior _ =>
      let s1 := s.setXlat { s.xlat with
        remap := tableSet s.xlat.remap block { spare := e.spare, state := .inUse }
        spares := tableSet s.xlat.spares e.spare .inUse }
      match prior with
      | some t => s1.retireSpare t block
      | none => s1
    | .inUse => s
  | none => s

/-! ## Rendering (R31) -/

/-- A remap entry as a captured image carries it (Table 2-3). -/
def renderEntry (e : Nat × RemapEntry) : Option (Nat × Nat) :=
  match e.2.state with
  | .inUse => some (e.1, e.2.spare)
  | .pending none false => none
  | .pending (some t) false => some (e.1, t)
  | .pending _ true => some (e.1, e.2.spare)

/-- The spare table as a captured image carries it, for one remap entry (Table 2-3). -/
def renderSpares (spares : List (Nat × SpareState)) (e : Nat × RemapEntry) : List (Nat × SpareState) :=
  match e.2.state with
  | .inUse => spares
  | .pending _ false => tableErase spares e.2.spare
  | .pending none true => tableSet spares e.2.spare .inUse
  | .pending (some t) true => tableSet (tableSet spares e.2.spare .inUse) t .retired

/-- The remap table of a captured image: IN_USE entries only. -/
def renderedRemap (x : Xlat) : List (Nat × Nat) := x.remap.filterMap renderEntry

/-- The spare table of a captured image. -/
def renderedSpares (x : Xlat) : List (Nat × SpareState) := x.remap.foldl renderSpares x.spares

/-- The switch a rendering carries: the block of a PENDING entry marked copy complete (R31, R132). -/
def renderedSwitch (x : Xlat) : Option Nat :=
  (x.remap.find? fun e => match e.2.state with
    | .pending _ true => true
    | .pending _ false => false
    | .inUse => false).map (·.1)

end Sys2Proof.Machine
end

