-- ==== Sys2Proof/Machine/Media.lean ====
section
/-! DEFINITION. The array behind the part (R1 to R5) and the issue and end of a media operation (R7, R8, R14). -/

namespace Sys2Proof.Machine

/-! ## The array -/

/-- What a line reads as that the array does not list: the manufacturing record in physical blocks 0 and 1 (R125,
log 12), the erased state elsewhere (R2). -/
def madeCell (key : Nat) : Cell :=
  if key < 2 * Config.linesPerBlock then .vouched (.mfg Config.mfgRecord (key % Config.linesPerBlock)) false
  else .vouched (.bytes erasedLine) false

/-- The content of a line of the array. -/
def cellAt (cells : List (Nat × Cell)) (key : Nat) : Cell := (tableGet cells key).getD (madeCell key)

/-- A line of the array is set; one that then holds what an unlisted line reads as is not listed. -/
def setCell (cells : List (Nat × Cell)) (key : Nat) (c : Cell) : List (Nat × Cell) :=
  if c = madeCell key then tableErase cells key else tableSet cells key c

/-- The canonical form of the array's list: keys rise, and no entry is what an unlisted line reads as. -/
def cellsCanonical (cells : List (Nat × Cell)) : Bool :=
  tableSorted cells && cells.all (fun e => decide (e.2 ≠ madeCell e.1))

/-- What a read of the line returns: content, poison flag, and whether a free value was used (R5, log 10). -/
def readCell (c : Cell) (n : Nat) : LineContent × Bool × Nat :=
  match c with
  | .vouched content poison => (content, poison, 0)
  | .unvouched => (.bytes (Config.unvouchedLine n).1, (Config.unvouchedLine n).2, 1)

/-- The content and poison flag a read answer carries. -/
def State.answerContent (s : State) (r : OpRecord) (src : ReadSource) : LineContent × Bool × Nat :=
  match src with
  | .given content poison => (content, poison, 0)
  | .stored => readCell (cellAt s.array.cells (arrayKey r.pblock r.line)) s.freeCount

/-- What a line holds after a program: on DONE the program's content and flag (R4, R5), otherwise content the array does
not vouch for (R5). -/
def programmedCell (op : ArrayOp) : ProgramResult → Cell
  | .done =>
    match op.payload with
    | some (content, poison) => .vouched content poison
    | none => .unvouched
  | .fail => .unvouched

/-- The operation the array has begun ends with this result; a read changes nothing (R3). -/
def endArrayOp (a : ArrayState) (result : ProgramResult) : ArrayState :=
  match a.op with
  | some op =>
    match op.kind with
    | .program =>
      { cells := setCell a.cells (arrayKey op.pblock op.line) (programmedCell op result), op := none }
    | .read => { a with op := none }
  | none => a

/-! ## Issue (R7) -/

/-- The operation is issued: the record is filled with the current identifier, the counter advances, the deadline starts,
and the operation is sent to the array (R7). -/
def State.issueOp (s : State) (kind : OpKind) (req : Requester) (pblock line : Nat) (block : Option Nat)
    (payload : Option (LineContent × Bool)) : State :=
  let r : OpRecord :=
    { id := s.port.nextId, kind := kind, requester := req, pblock := pblock, line := line, block := block,
      spare := spareOf pblock, deadline := Config.mediaTimeoutUs }
  (s.setPort { record := some r, nextId := s.port.nextId + 1 }).setArray
    { s.array with op := some { id := r.id, kind := kind, pblock := pblock, line := line, payload := payload } }

/-! ## Delivery (R8, R9) -/

/-- The command in which the requester takes its answer. -/
def deliveryCommand (r : OpRecord) : Instr :=
  match r.requester, r.kind with
  | .hostRead, _ => .hostReadAnswer
  | .commit, _ => .commitProgramAnswer
  | .relocation, .read => .copyReadAnswer
  | .relocation, .program => .copyProgramAnswer
  | .drain, .read => .rmwReadAnswer
  | .drain, .program => .drainProgramAnswer
  | .patrol, _ => .patrolReadAnswer
  | .loader, _ => .loaderReadAnswer

/-- The port ends the operation of the record, enters IDLE and sends the answer to the requester (R8, R14). -/
def State.endOp (s : State) (r : OpRecord) (d : Delivered) : State :=
  ((s.setPort { s.port with record := none }).setDeliveries (s.deliveries ++ [{ record := r, answer := d }])).post
    (deliveryCommand r)

/-- The delivered answer that a command takes. -/
def State.deliveredFor (s : State) (c : Instr) : Option Delivery :=
  s.deliveries.find? fun d => decide (deliveryCommand d.record = c)

/-- The delivered answer is taken. -/
def State.takeDelivery (s : State) (d : Delivery) (c : Instr) : State :=
  (s.setDeliveries (s.deliveries.erase d)).unpost c

end Sys2Proof.Machine
end

