-- ==== Sys2Proof/Machine/Flags.lean ====
section
/-! DEFINITION. The conditions that are computed from the state and not held in it: coverage, eligibility, issuability,
migration, the patrol scanner's state, the forms of a damaged frame. -/

namespace Sys2Proof.Machine

/-! ## The port (R6) -/

/-- The port state is BUSY: an operation record is held (R6). -/
def State.busy (s : State) : Bool := s.port.record.isSome

/-! ## Staging (R40, R41, R48, R49) -/

/-- The number of entries in use (R39). -/
def occupancy (st : Staging) : Nat := st.entries.length

/-- A record that closed epoch `closed` covers the entry (R41, R57). -/
def covers (closed : Nat) (e : Entry) : Bool := decide (e.epoch ≤ closed)

/-- A record on the barrier list covers the entry. -/
def coveredByRecord (st : Staging) (e : Entry) : Bool :=
  st.hostSlots.any (fun r => covers r.epoch e) || st.flushSlot.any (fun r => covers r.epoch e)

/-- The entry is eligible for drain (R48). -/
def eligible (st : Staging) (e : Entry) : Bool :=
  decide (st.threshold ≤ occupancy st) || e.agePassed || coveredByRecord st e || decide (st.mode = .through) ||
    !e.tags.isEmpty

/-- An older entry of the same line is in the buffer (R49). -/
def hasOlder (st : Staging) (e : Entry) : Bool :=
  st.entries.any fun f => decide (f.line = e.line) && decide (f.order < e.order)

/-- Another entry of the same line is in the buffer (R40). -/
def hasOther (st : Staging) (e : Entry) : Bool :=
  st.entries.any fun f => decide (f.line = e.line) && decide (f.order ≠ e.order)

/-- The entry is issuable (R49), while no entry is ISSUED. -/
def issuable (st : Staging) (e : Entry) : Bool :=
  eligible st e && decide (e.hold = .none) && !hasOlder st e && decide (fenceCount st e.line = 0)

/-- The operation the buffer offers, with its entry (R49 to R51): the program of the merged line of an ISSUED entry,
else the first operation of the oldest issuable entry; none while an operation of the buffer is in progress. -/
def drainOffer (st : Staging) : Option (Entry × OpKind) :=
  if st.drainOp.isSome then none
  else
    match st.entries.find? (fun e => decide (e.state = .issued)) with
    | some e => some (e, .program)
    | none =>
      (st.entries.find? (issuable st)).map fun e => (e, if e.mask = fullMask then .program else .read)

/-- What a drain program of the entry carries: its merged line, or its own bytes with the flag clear (R50, R51). -/
def drainPayload (e : Entry) : Line × Bool := e.merged.getD (e.data, false)

/-- The state of an entry that leaves ISSUED other than by DONE (R40). -/
def returnedState (st : Staging) (e : Entry) : EntryState :=
  if e.epoch = st.epoch ∧ hasOther st e = false then .opened else .sealed

/-- Any entry of the block carries hold SRC_FAILED (R43, R110, R117). -/
def hasSrcFailed (st : Staging) (block : Nat) : Bool :=
  st.entries.any fun e => decide (e.block = block) && decide (e.hold = .srcFailed)

/-- The entry's program is in progress (R54). That it counts as in progress until the buffer has taken its answer, although the port ends
the operation before it delivers the answer (R8, R9), is the model's choice (log 38). -/
def programming (st : Staging) (e : Entry) : Bool :=
  decide (e.state = .issued) && decide (st.drainOp = some { order := e.order, kind := .program })

/-- The hold a newly allocated entry of the block takes (R43). -/
def holdFor (st : Staging) (block : Nat) : Hold :=
  if hasSrcFailed st block then .srcFailed else if st.migrating = some block then .migrating else .none

/-! ## Relocation (R100) -/

/-- The block is named by the in-flight record: it is being migrated. -/
def Reloc.isMigrating (r : Reloc) (block : Nat) : Bool :=
  match r.record with
  | some x => decide (x.block = block)
  | none => false

/-- The block has an entry in the relocation queue. -/
def Reloc.isQueued (r : Reloc) (block : Nat) : Bool :=
  r.urgent.any (fun e => decide (e.block = block)) || r.normal.any (fun e => decide (e.block = block))

/-- The length of the relocation queue. -/
def Reloc.length (r : Reloc) : Nat := r.urgent.length + r.normal.length

/-! ## Start-up and patrol (R139, Table 8-1) -/

/-- The start-up state is LOADING_MFG or LOADING_FIELD. -/
def Loader.isLoading (l : Loader) : Bool := decide (l.state = .loadingMfg) || decide (l.state = .loadingField)

/-- The patrol scanner states (Table 8-1). -/
inductive PatrolState where
  | standby
  | running
  | paused
  | halted
  deriving DecidableEq, Repr

/-- The patrol scanner's state (Table 8-1). -/
def State.patrolState (s : State) : PatrolState :=
  if s.health.state = .failed then .halted
  else if s.loader.isLoading then .standby
  else if s.loader.state = .failed then .halted
  else if s.patrol.enable && decide (s.patrol.control = .run) then .running
  else .paused

/-- The position's block is skipped: lost or being migrated (R148). -/
def State.patrolSkips (s : State) (block : Nat) : Bool := s.xlat.isLost block || s.reloc.isMigrating block

/-! ## Frames (R169) -/

/-- A frame of these bytes is damaged (R169). -/
def frameDamaged (frame : List Byte) : Bool :=
  let n := (frame.getD 2 0).toNat
  decide (frame.length < 4) || decide (32 < n) || decide (frame.length ≠ n + 4) ||
    decide (frame.getLast? ≠ some (crc8 frame.dropLast))

end Sys2Proof.Machine
end

