-- ==== Sys2Proof/Machine/StagingOps.lean ====
section
/-! DEFINITION. The write staging buffer (Chapter 3): epochs, staging a write, snapshots, holds, barriers, discards. -/

namespace Sys2Proof.Machine

/-! ## Barriers (R58) and discards (R57, R61, R62) -/

/-- No entry of the closed epoch or an earlier one remains in the buffer (R58). -/
def recordComplete (st : Staging) (closed : Nat) : Bool := st.entries.all fun e => !covers closed e

/-- BARRIER_DONE for each completed record (R58, R77). -/
def State.completeBarriers (s : State) : List BarrierRecord → State
  | [] => s
  | r :: rest => (s.answerBarrier r.tag (if r.failFlag then .fail else .durable)).completeBarriers rest

/-- The FLUSH record, if it is complete, leaves its slot and its outcome goes to the link (R58). -/
def State.completeFlush (s : State) : State :=
  match s.staging.flushSlot with
  | some r =>
    if recordComplete s.staging r.epoch then
      (s.setStaging { s.staging with flushSlot := none }).post
        (.longCommandEnding .flush (if r.failFlag then .dataLost else .ok) 0)
    else s
  | none => s

/-- The records on the barrier list are examined, and every complete one completes (R58); the order of several answers is
left open (log 15). -/
def State.examineBarriers (s : State) : State :=
  let ended := s.staging.hostSlots.filter fun r => recordComplete s.staging r.epoch
  let s1 := s.setStaging { s.staging with
    hostSlots := s.staging.hostSlots.filter fun r => !recordComplete s.staging r.epoch }
  let s2 := s1.completeBarriers (freeOrder ended.length s.freeCount ended)
  (s2.useOrder ended.length).completeFlush

/-- WRITE_ACK MEDIA_FAIL for the waiting tags of each discarded entry (R61, R62). -/
def State.failTags (s : State) : List Entry → State
  | [] => s
  | e :: rest => (s.answerWrites .mediaFail e.tags).failTags rest

/-- The records that cover one of the discarded entries have their fail flags set (R57). -/
def flagRecords (st : Staging) (gone : List Entry) : Staging :=
  { st with
    hostSlots := st.hostSlots.map fun r => { r with failFlag := r.failFlag || gone.any (covers r.epoch) }
    flushSlot := st.flushSlot.map fun r => { r with failFlag := r.failFlag || gone.any (covers r.epoch) } }

/-- Every entry of a block leaves the buffer (R61): its tags are answered MEDIA_FAIL, the records that cover it are
flagged, DATA_DISCARDED is appended, and the barrier list is examined. -/
def State.discardBlock (s : State) (block : Nat) : State :=
  let gone := s.staging.entries.filter fun e => decide (e.block = block)
  let kept := s.staging.entries.filter fun e => !decide (e.block = block)
  let s1 := s.setStaging (flagRecords { s.staging with entries := kept } gone)
  let s2 := (s1.failTags (freeOrder gone.length s.freeCount gone)).useOrder gone.length
  let s3 := if gone.isEmpty then s2
    else s2.append { kind := .dataDiscarded, block := some block, value := gone.length }
  s3.examineBarriers

/-- Every record on the barrier list has its fail flag set (R62). -/
def flagAll (st : Staging) : Staging :=
  { st with
    hostSlots := st.hostSlots.map fun r => { r with failFlag := true }
    flushSlot := st.flushSlot.map fun r => { r with failFlag := true } }

/-- The buffer takes the FAILED notice (R62): every entry leaves it, and every record completes with its flag set. -/
def State.discardAll (s : State) : State :=
  let gone := s.staging.entries
  let s1 := s.setStaging (flagAll { s.staging with entries := [] })
  let s2 := (s1.failTags (freeOrder gone.length s.freeCount gone)).useOrder gone.length
  let s3 := if gone.isEmpty then s2 else s2.append { kind := .dataDiscarded, value := gone.length }
  s3.examineBarriers

/-! ## Epochs (R41) -/

/-- Every OPEN entry becomes SEALED (R41). -/
def sealEntry (e : Entry) : Entry := if e.state = .opened then { e with state := .sealed } else e

/-- The current epoch is closed: OPEN entries are sealed and the epoch advances (R41). -/
def closeEpoch (st : Staging) : Staging :=
  { st with entries := st.entries.map sealEntry, epoch := st.epoch + 1 }

/-- A host BARRIER is taken by the buffer (R56): its record is placed and examined; its tag is OUTSTANDING (R75). -/
def State.placeBarrier (s : State) (tag : Nat) : State :=
  let closed := s.staging.epoch
  let st := closeEpoch s.staging
  let s1 := s.setStaging { st with
    hostSlots := st.hostSlots ++ [{ tag := tag, epoch := closed, failFlag := false }] }
  (s1.setHost { s1.host with barrierTags := tableSet s1.host.barrierTags tag closed }).examineBarriers

/-- The management FLUSH is taken by the buffer (R59). -/
def State.placeFlush (s : State) : State :=
  let st := closeEpoch s.staging
  (s.setStaging { st with flushSlot := some { epoch := s.staging.epoch, failFlag := false } }).examineBarriers

/-! ## Staging a write (R42, R43, R45) -/

/-- The line's OPEN entry (R42). -/
def isOpenOf (line : Nat) (e : Entry) : Bool := decide (e.line = line) && decide (e.state = .opened)

/-- A write merges into the OPEN entry (R42); in THROUGH mode its tag joins the waiting tags (R45). -/
def mergeInto (st : Staging) (tag : Nat) (data : Line) (mask : Mask) (e : Entry) : Entry :=
  { e with
    data := overlay mask data e.data
    mask := e.mask ||| mask
    tags := if st.mode = .through then e.tags ++ [tag] else e.tags }

/-- The entry a write is allocated (R42, R43, R45). -/
def newEntry (st : Staging) (tag line : Nat) (data : Line) (mask : Mask) : Entry :=
  { line := line, data := overlay mask data zeroLine, mask := mask, epoch := st.epoch, state := .opened,
    hold := holdFor st (blockOf line), order := st.nextOrder, ageTimer := st.ageTimer, agePassed := false,
    tags := if st.mode = .through then [tag] else [], merged := none }

/-- An admitted write is taken: it merges or allocates (R42). -/
def stageWrite (st : Staging) (tag line : Nat) (data : Line) (mask : Mask) : Staging :=
  if st.entries.any (isOpenOf line) then
    { st with entries := st.entries.map fun e => if isOpenOf line e then mergeInto st tag data mask e else e }
  else
    { st with entries := st.entries ++ [newEntry st tag line data mask], nextOrder := st.nextOrder + 1 }

/-! ## Snapshots (R46) -/

/-- One entry's bytes placed over a snapshot. -/
def snapshotStep (x : Line × Mask) (e : Entry) : Line × Mask := (overlay e.mask e.data x.1, x.2 ||| e.mask)

/-- The snapshot of a line and its coverage (R46). -/
def snapshot (st : Staging) (line : Nat) : Line × Mask :=
  (st.entries.filter fun e => decide (e.line = line)).foldl snapshotStep (zeroLine, 0)

/-! ## Holds (R53 to R55) -/

/-- An entry of a block that is marked migrating (R54). -/
def markEntry (st : Staging) (block : Nat) (e : Entry) : Entry :=
  if e.block ≠ block ∨ e.hold = .srcFailed ∨ programming st e = true then e
  else if e.state = .issued then { e with state := returnedState st e, hold := .migrating, merged := none }
  else { e with hold := .migrating }

/-- The block is marked migrating (R54). -/
def markMigrating (st : Staging) (block : Nat) : Staging :=
  { st with entries := st.entries.map (markEntry st block), migrating := some block }

/-- The release after the commit: every entry of the block loses its hold (R55). -/
def releaseHolds (st : Staging) (block : Nat) : Staging :=
  { st with
    entries := st.entries.map fun e => if e.block = block then { e with hold := .none } else e
    migrating := none }

/-- The abandonment without src_failed: every MIGRATING hold of the block is removed (R55). -/
def abandonHolds (st : Staging) (block : Nat) : Staging :=
  { st with
    entries := st.entries.map fun e =>
      if e.block = block ∧ e.hold = .migrating then { e with hold := .none } else e
    migrating := none }

/-- An entry when the program of the entry with order `order` of its block ended FAIL (R53). -/
def failEntry (st : Staging) (block order : Nat) (e : Entry) : Entry :=
  if e.block ≠ block then e
  else if e.order = order then { e with state := returnedState st e, hold := .srcFailed, merged := none }
  else { e with hold := .srcFailed }

/-! ## A host link reset at the buffer (R65) -/

/-- The host slots are emptied and the waiting tags removed; entries, epochs and the FLUSH are kept (R65). -/
def dropHostPromises (st : Staging) : Staging :=
  { st with entries := st.entries.map fun e => { e with tags := [] }, hostSlots := [] }

end Sys2Proof.Machine
end

