-- ==== Sys2Proof/Machine/Arbiter.lean ====
section
/-! DEFINITION. The media arbiter (section 1.5): the standing offer of each requester, the order of the classes, and the
choice, which issues the chosen operation. -/

namespace Sys2Proof.Machine

/-! ## Standing offers (R10) -/

/-- The loader offers a read (R13, R140, R141). -/
def State.loaderOffers (s : State) : Bool :=
  !s.inReset && s.loader.isLoading && decide (s.loader.task ≠ .firstStart) && !s.loader.readOut

/-- The host port's class-1 offer: the oldest QUEUED record, while none is ISSUED (R80). -/
def hostOffer (h : HostPort) : Option ReadRecord :=
  match h.queue with
  | r :: _ => if r.issued then none else some r
  | [] => none

/-- The commit unit offers a program (R134, R138). -/
def commitOffers (c : CommitUnit) : Bool := c.writing.isSome && !c.stopped && !c.progOut

/-- The engine offers a copy step (R112, R113, R123): its record, source and spare. -/
def copyOffer (r : Reloc) : Option (RelocRecord × Nat × Nat) :=
  if r.engine = .copy ∧ r.failed = false ∧ r.stepOut = false then
    match r.record with
    | some x =>
      match x.source, x.spare with
      | some src, some sp => some (x, src, sp)
      | none, _ => none
      | _, none => none
    | none => none
  else none

/-- The drain's class-4 offer. A lost block has no location, and its offer is withdrawn (R23). -/
def State.drainOffered (s : State) : Option (Entry × OpKind) :=
  match drainOffer s.staging with
  | some (e, k) => if s.xlat.isLost e.block then none else some (e, k)
  | none => none

/-- The patrol scanner's class-5 offer (R148, R151). -/
def patrolOffer (p : Patrol) : Option PatrolRead :=
  match p.outstanding with
  | some r => if r.issued then none else some r
  | none => none

/-- In health FAILED the commit unit, the engine and the patrol scanner make no offer, before their notice too (R17, R123, R138, R154;
log 16). -/
def State.mayOffer (s : State) : Bool := decide (s.health.state ≠ .failed)

/-- The requester has a standing offer. -/
def State.offers (s : State) : Requester → Bool
  | .hostRead => (hostOffer s.host).isSome
  | .commit => s.mayOffer && commitOffers s.commit
  | .relocation => s.mayOffer && (copyOffer s.reloc).isSome
  | .drain => s.drainOffered.isSome
  | .patrol => s.mayOffer && (patrolOffer s.patrol).isSome
  | .loader => s.loaderOffers

/-- The order in which the arbiter looks at the requesters (R11), with class 4 first from the urgent watermark on (R12).
The loader is the one requester while it has an offer (R13). -/
def classOrder (occ : Nat) : List Requester :=
  if Config.urgentWatermark ≤ occ then [.loader, .drain, .hostRead, .commit, .relocation, .patrol]
  else [.loader, .hostRead, .commit, .relocation, .drain, .patrol]

/-- The requester the arbiter takes. -/
def State.choice (s : State) : Option Requester := (classOrder (occupancy s.staging)).find? s.offers

/-! ## Issue of each requester's offer -/

/-- The first record becomes ISSUED (R80). -/
def issueFirst : List ReadRecord → List ReadRecord
  | [] => []
  | r :: rest => { r with issued := true } :: rest

/-- A chosen host read is issued to the location translation names (R80, R20). -/
def State.issueHostRead (s : State) (r : ReadRecord) : State :=
  (s.setHost { s.host with queue := issueFirst s.host.queue }).issueOp .read .hostRead
    (translate s.xlat r.block) (offsetOf r.addr) (some r.block) none

/-- A chosen host read whose block is lost is answered POISON without an access (R80, R23). -/
def State.answerLostRead (s : State) (r : ReadRecord) : State :=
  ((s.setHost { s.host with queue := s.host.queue.drop 1 }).answerRead r.tag .poison).lowerFence r.addr

/-- The program of the current write step is issued (R134, R127). -/
def State.issueCommit (s : State) : State :=
  match s.commit.writing with
  | some w =>
    let k := imageLineOf w.step
    (s.setCommit { s.commit with progOut := true }).issueOp .program .commit
      (imageBlock w.target k) (k % 64) none (some (.image w.image k, false))
  | none => s

/-- The copy step of the engine is issued: the program of the spare when the line buffer is filled, else the read of the
source (R112, R113). -/
def State.issueCopy (s : State) : State :=
  match copyOffer s.reloc with
  | some (x, src, sp) =>
    match x.buffer with
    | some (data, poison) =>
      (s.setReloc { s.reloc with stepOut := true, record := some { x with buffer := none } }).issueOp
        .program .relocation (spareBlock sp) x.cursor none (some (.bytes data, poison))
    | none =>
      (s.setReloc { s.reloc with stepOut := true }).issueOp .read .relocation src x.cursor (some x.block) none
  | none => s

/-- The offer of the drain is issued: its entry becomes ISSUED (R49), to the location translation names (R20). -/
def State.issueDrain (s : State) : State :=
  match s.drainOffered with
  | some (e, kind) =>
    let entries := s.staging.entries.map fun f => if f.order = e.order then { f with state := .issued } else f
    (s.setStaging { s.staging with entries := entries, drainOp := some { order := e.order, kind := kind } }).issueOp
      kind .drain (translate s.xlat e.block) (offsetOf e.line) (some e.block)
      (match kind with
        | .program => some (.bytes (drainPayload e).1, (drainPayload e).2)
        | .read => none)
  | none => s

/-- The patrol read is issued (R151). -/
def State.issuePatrol (s : State) : State :=
  match s.patrol.outstanding with
  | some r =>
    (s.setPatrol { s.patrol with outstanding := some { r with issued := true } }).issueOp .read .patrol
      (translate s.xlat r.block) r.line (some r.block) none
  | none => s

/-- The physical block of the loader's next read. -/
def loaderBlock (l : Loader) : Nat :=
  match l.task with
  | .m0 => 0
  | .m1 => 1
  | .fieldA => imageBlock .a l.line
  | .fieldB => imageBlock .b l.line
  | .firstStart => 0

/-- The loader's read is issued (R13, R140, R141). -/
def State.issueLoader (s : State) : State :=
  (s.setLoader { s.loader with readOut := true }).issueOp .read .loader
    (loaderBlock s.loader) (s.loader.line % 64) none none

/-! ## The choice (R11) -/

/-- While the port is IDLE and an offer stands, the arbiter issues the offer of the first class of the order (R11, R12). A
host read of a lost block is answered instead, and the choice falls to the remaining offers (R80); the first argument
bounds how often that happens. -/
def State.arbitrateFrom : Nat → State → State
  | 0, s => s
  | n + 1, s =>
    if s.busy then s
    else
      match s.choice with
      | none => s
      | some .loader => s.issueLoader
      | some .commit => s.issueCommit
      | some .relocation => s.issueCopy
      | some .drain => s.issueDrain
      | some .patrol => s.issuePatrol
      | some .hostRead =>
        match hostOffer s.host with
        | some r =>
          if s.xlat.isLost r.block then (s.answerLostRead r).arbitrateFrom n else s.issueHostRead r
        | none => s

/-- The arbiter's choice (R11). -/
def State.arbitrate (s : State) : State := s.arbitrateFrom (s.host.queue.length + 1)

end Sys2Proof.Machine
end

