-- ==== Sys2Proof/Machine/HostOps.lean ====
section
/-! DEFINITION. The host port (Chapter 4) and the arrival checks (R18): taking the request at the head of the channel. -/

namespace Sys2Proof.Machine

/-! ## Arrival checks (R18) -/

/-- The answer of the arrival checks to a READ or WRITE. -/
inductive Arrival where
  | healthFailed
  | outOfRange
  | lost
  | admitted
  deriving DecidableEq, Repr

/-- The checks of Table 2-1, in their order. -/
def State.arrivalCheck (s : State) (addr : Nat) : Arrival :=
  if s.health.state = .failed then .healthFailed
  else if s.xlat.nb * Config.linesPerBlock ≤ addr ∨ s.xlat.el ≤ blockOf addr then .outOfRange
  else if s.xlat.isLost (blockOf addr) then .lost
  else .admitted

/-! ## Protocol errors (R71, R72) -/

/-- The block a HOST_PROTOCOL_ERROR record carries: that of the line address, when it is below NB (R72). -/
def protocolBlock (x : Xlat) (addr : Nat) : Option Nat := if blockOf addr < x.nb then some (blockOf addr) else none

/-- A request that fails the form or tag check is answered, and HOST_PROTOCOL_ERROR is appended (R71, R72). -/
def State.protocolError (s : State) (answer : Response) (block : Option Nat) (kind status tag : Nat) : State :=
  (s.respond answer).append
    { kind := .hostProtocolError, block := block, value := protocolErrorValue kind status tag }

/-! ## Taking a request (R66, R71) -/

/-- The tag is OUTSTANDING in its table (R70). -/
def outstanding (tags : List (Nat × Nat)) (tag : Nat) : Bool := (tableGet tags tag).isSome

/-- A READ is taken (R79): the tag check, the arrival checks, the snapshot; a read whose snapshot falls short is queued
with a fence. -/
def State.takeRead (s : State) (tag addr : Nat) : State :=
  if outstanding s.host.readTags tag then
    s.protocolError (.readResult tag .tagError) (protocolBlock s.xlat addr) 0 2 tag
  else
    match s.arrivalCheck addr with
    | .healthFailed => s.respond (.readResult tag .poison)
    | .outOfRange => s.respond (.readResult tag .range)
    | .lost => s.respond (.readResult tag .poison)
    | .admitted =>
      let snap := snapshot s.staging addr
      if snap.2 = fullMask then s.respond (.readResult tag (.ok snap.1))
      else
        (s.raiseFence addr).setHost { s.host with
          queue := s.host.queue ++
            [{ tag := tag, addr := addr, snapshot := snap.1, coverage := snap.2, issued := false }]
          readTags := tableSet s.host.readTags tag addr }

/-- A WRITE is taken (R71, R73): the form check, the tag check, the arrival checks, then the staging buffer (R42, R45). -/
def State.takeWrite (s : State) (tag addr : Nat) (data : Line) (mask : Mask) : State :=
  if mask = 0 then
    s.protocolError (.writeAck tag .malformed) (protocolBlock s.xlat addr) 1 1 tag
  else if outstanding s.host.writeTags tag then
    s.protocolError (.writeAck tag .tagError) (protocolBlock s.xlat addr) 1 2 tag
  else
    match s.arrivalCheck addr with
    | .healthFailed => s.respond (.writeAck tag .mediaFail)
    | .outOfRange => s.respond (.writeAck tag .range)
    | .lost => s.respond (.writeAck tag .mediaFail)
    | .admitted =>
      let s1 := s.setStaging (stageWrite s.staging tag addr data mask)
      match s.staging.mode with
      | .back => s1.respond (.writeAck tag .accepted)
      | .through => s1.setHost { s1.host with writeTags := tableSet s1.host.writeTags tag addr }

/-- A BARRIER is taken (R71, R75). -/
def State.takeBarrier (s : State) (tag : Nat) : State :=
  if outstanding s.host.barrierTags tag then
    s.protocolError (.barrierDone tag .tagError) none 2 2 tag
  else if s.health.state = .failed then s.respond (.barrierDone tag .fail)
  else s.placeBarrier tag

/-- A request is taken. -/
def State.takeRequest (s : State) : HostRequest → State
  | .read tag addr => s.takeRead tag addr
  | .write tag addr data mask => s.takeWrite tag addr data mask
  | .barrier tag => s.takeBarrier tag

/-- The conditions of Table 4-2, for the port in OPEN. -/
def State.canTake (s : State) (r : HostRequest) : Bool :=
  decide (s.host.ready = .opened) && decide (s.host.reserve < Config.responseRoom) &&
    (match r with
      | .read _ _ => true
      | .write _ _ _ _ => decide (occupancy s.staging < Config.stagingEntries)
      | .barrier _ => decide (s.staging.hostSlots.length < Config.hostBarrierSlots))

/-- The port takes the requests at the head of the channel while the conditions of Table 4-2 hold (R66, R67), each offer it
makes reaching the arbiter; in IN_RESET the requests presented are discarded (R84). The first argument bounds the number
taken. -/
def State.takeHeld : Nat → State → State
  | 0, s => s
  | n + 1, s =>
    match s.host.channel with
    | [] => s
    | r :: rest =>
      if s.host.ready = .inReset then s.setHost { s.host with channel := [] }
      else if s.canTake r then
        ((s.setHost { s.host with channel := rest }).takeRequest r).arbitrate.takeHeld n
      else s

/-- What follows a change of offers, occupancy, slots or reserve: the arbiter's choice (R11), then the held requests the port
may now take (R67; log 25). -/
def State.settle (s : State) : State :=
  let s1 := s.arbitrate
  s1.takeHeld s1.host.channel.length

/-- The memory controller presents a request (R66). -/
def State.present (s : State) (r : HostRequest) : State :=
  (s.setHost { s.host with channel := s.host.channel ++ [r] }).settle

/-! ## Host link reset (R84, R85) -/

/-- The ends of the QUEUED reads are reported: each lowers its line's fence (R84, R86). -/
def State.lowerFences (s : State) : List ReadRecord → State
  | [] => s
  | r :: rest => (s.lowerFence r.addr).lowerFences rest

/-- The assertion of the host link reset at a port that is not STARTING (R84, R65). -/
def State.linkResetPort (s : State) : State :=
  let queued := s.host.queue.filter fun r => !r.issued
  let abandoned := match s.host.queue.find? (fun r => r.issued) with
    | some r => some r.addr
    | none => s.host.abandoned
  let s1 := s.lowerFences queued
  (s1.setStaging (dropHostPromises s1.staging)).setHost
    { channel := [], responses := [], readTags := [], writeTags := [], barrierTags := [], queue := [],
      ready := .inReset, abandoned := abandoned }

/-- The port leaves STARTING when the loader reports its result (R83, R67). -/
def State.openPort (s : State) : State :=
  if s.pins.linkReset then s.setHost { s.host with ready := .inReset, channel := [] }
  else s.setHost { s.host with ready := .opened }

/-! ## The end of a host read (R81, R82, R85, R86) -/

/-- The answer of an abandoned read is discarded (R85). -/
def State.endAbandoned (s : State) (line : Nat) : State :=
  let s1 := s.lowerFence line
  s1.setHost { s1.host with
    abandoned := none
    ready := if s1.host.ready = .recovering then .opened else s1.host.ready }

/-- The status and line of a completed read (R81): POISON in FAILED (R86), on an UNCORRECTABLE outcome or a set poison
flag; otherwise the snapshot's bytes over the delivered ones. -/
def readOutcome (failed : Bool) (r : ReadRecord) (d : Delivered) : ReadStatus :=
  if failed || d.isUncorrectable || d.poison then .poison
  else .ok (overlay r.coverage r.snapshot d.bytes)

/-- The outcome of a read is handed on (R82, R89, R97): a CORRECTED one to the watch table, an UNCORRECTABLE one to the
health block and the relocation queue. -/
def State.handOn (s : State) (block : Nat) (d : Delivered) : State :=
  match d.correctedBits with
  | some n => s.post (.watchReport block n)
  | none =>
    if d.isUncorrectable then (s.count countUncorrectable).post (.relocRequest block .uncorrectable) else s

/-- The port takes the answer of its ISSUED record (R81). -/
def State.endHostRead (s : State) (r : ReadRecord) (d : Delivered) : State :=
  let failed := decide (s.health.state = .failed)
  let s1 := s.setHost { s.host with queue := s.host.queue.drop 1 }
  let s2 := (s1.answerRead r.tag (readOutcome failed r d)).lowerFence r.addr
  if failed then s2 else s2.handOn r.block d

/-- The port takes the answer delivered to it: of an abandoned read (R85) or of the ISSUED record (R81). -/
def State.hostReadAnswered (s : State) (d : Delivered) : State :=
  match s.host.abandoned with
  | some line => (s.endAbandoned line).settle
  | none =>
    match s.host.queue with
    | r :: _ => if r.issued then (s.endHostRead r d).settle else s
    | [] => s

/-! ## FAILED (R86) -/

/-- Each QUEUED record is answered POISON in queue order (R86). -/
def State.poisonQueued (s : State) : List ReadRecord → State
  | [] => s
  | r :: rest => ((s.answerRead r.tag .poison).lowerFence r.addr).poisonQueued rest

/-- The port takes the FAILED notice (R86). -/
def State.failHostPort (s : State) : State :=
  let queued := s.host.queue.filter fun r => !r.issued
  (s.poisonQueued queued).setHost
    { (s.poisonQueued queued).host with queue := s.host.queue.filter fun r => r.issued }

end Sys2Proof.Machine
end

