-- ==== Sys2Proof/Machine/WatchOps.lean ====
section
/-! DEFINITION. The error watch table (Chapter 5), and the addition of a block to the lost list (R34), which reaches it. -/

namespace Sys2Proof.Machine

/-! ## The table (R90 to R95) -/

/-- The table without the block's entry (R92, R93). -/
def dropWatch (w : Watch) (block : Nat) : Watch := { w with entries := w.entries.filter fun e => e.block != block }

/-- A block that is queued or lost loses its entry (R93); in FAILED the table keeps every entry (R98). -/
def forgetWatch (w : Watch) (block : Nat) : Watch := if w.failed then w else dropWatch w block

/-- The watch entry of a block. -/
def watchEntry (w : Watch) (block : Nat) : Option WatchEntry := w.entries.find? fun e => decide (e.block = block)

/-- The lowest count in the table; 255 for an empty one. -/
def lowestCount (l : List WatchEntry) : Nat := l.foldl (fun m e => min m e.count) 255

/-- The entry an insertion into a full table evicts: the last entry of lowest count (R91). -/
def evicted (l : List WatchEntry) : Option WatchEntry := l.reverse.find? fun e => decide (e.count = lowestCount l)

/-- The table with an entry evicted if it is full (R91). -/
def makeRoom (l : List WatchEntry) : List WatchEntry :=
  if l.length < Config.watchEntries then l
  else
    match evicted l with
    | some v => l.filter fun e => e.block != v.block
    | none => l

/-- A count raised by one; 255 stays 255 (R90). -/
def raiseCount (n : Nat) : Nat := if n < 255 then n + 1 else n

/-- The count a recorded report gives the block (R90, R91). -/
def reportedCount (w : Watch) (block : Nat) : Nat :=
  match watchEntry w block with
  | some e => raiseCount e.count
  | none => 1

/-- The table when a recorded report leaves the block below the threshold (R90, R91): an entry there is moved to position
0, a new one is inserted there, with an eviction if the table is full. -/
def recordWatch (w : Watch) (block bits : Nat) : Watch :=
  let e : WatchEntry := { block := block, count := reportedCount w block, lastBits := bits }
  match watchEntry w block with
  | some _ => { w with entries := e :: (dropWatch w block).entries }
  | none => { w with entries := e :: makeRoom w.entries }

/-- The block's reports are dropped: queued, migrating, or lost (R90), or no block of the part (log 3). That a block counts as being
migrated for as long as the in-flight record names it (R100), after an abandonment that meets a full lost list too, is the model's choice
(log 39). -/
def State.dropsReport (s : State) (block : Nat) : Bool :=
  s.reloc.isQueued block || s.reloc.isMigrating block || s.xlat.isLost block || decide (s.xlat.nb ≤ block)

/-- The table takes a report (R90 to R92). -/
def State.takeReport (s : State) (block bits : Nat) : State :=
  if s.watch.failed || s.dropsReport block then s
  else if s.watch.threshold ≤ reportedCount s.watch block then
    (s.setWatch (dropWatch s.watch block)).post (.relocRequest block .corrThreshold)
  else s.setWatch (recordWatch s.watch block bits)

/-- Requests for the blocks that a lowered threshold takes out, in the order given (R94). -/
def State.requestAll (s : State) : List WatchEntry → State
  | [] => s
  | e :: rest => (s.post (.relocRequest e.block .corrThreshold)).requestAll rest

/-- The threshold changes (R94): the entries at or above the new value leave the table and are requested, the least
recently updated first. -/
def State.setThreshold (s : State) (n : Nat) : State :=
  let out := s.watch.entries.filter fun e => decide (n ≤ e.count)
  let kept := s.watch.entries.filter fun e => decide (e.count < n)
  (s.setWatch { s.watch with entries := kept, threshold := n }).requestAll out.reverse

/-- Every count is halved at a pass end (R95). -/
def halveWatch (w : Watch) : Watch :=
  { w with
    entries := (w.entries.map fun e => { e with count := e.count / 2 }).filter fun e => decide (0 < e.count) }

/-- The table at a pass end (R95); in FAILED it keeps every count (R98). -/
def passWatch (w : Watch) : Watch := if w.failed then w else halveWatch w

/-! ## Lost blocks (R34, R35, R151) -/

/-- A standing patrol offer of the block is withdrawn and the outstanding flag cleared (R151, R23). -/
def withdrawPatrol (p : Patrol) (block : Nat) : Patrol :=
  match p.outstanding with
  | some r => if r.block = block ∧ r.issued = false then { p with outstanding := none } else p
  | none => p

/-- The remap entry of a block that becomes lost is removed and its spare retires (R34, step 2). R34 has the entry IN_USE; that the two
spares of a PENDING entry both retire is the model's choice, for states that no run reaches (log 37). -/
def State.dropRemap (s : State) (block : Nat) : State :=
  match tableGet s.xlat.remap block with
  | some e =>
    let s1 := (s.setXlat { s.xlat with remap := tableErase s.xlat.remap block }).retireSpare e.spare block
    match e.state with
    | .pending (some t) _ => s1.retireSpare t block
    | .pending none _ => s1
    | .inUse => s1
  | none => s

/-- The party that waits on the commit of an addition (R34, step 5). -/
def lostParty : LostRequester → CommitParty
  | .engine => .engine
  | .queue => .queue

/-- A block is added to the lost list (R34), or, the list being full, the overflow is reported (R35). In FAILED the tables are kept as
they stand (R38). That the addition of a block already on the list changes nothing at all, with no commit requested and no waiter, is the
model's choice: R34 says only that the list has no duplicates (log 37). -/
def State.addLost (s : State) (block : Nat) (req : LostRequester) : State :=
  if s.health.state = .failed ∨ s.xlat.isLost block = true then s
  else if Config.lostBlocks ≤ s.xlat.lost.length then s.post (.healthReport .lostOverflow)
  else
    let s1 := s.setXlat { s.xlat with lost := insertRising s.xlat.lost block }
    let s2 := s1.dropRemap block
    let s3 := (s2.setPatrol (withdrawPatrol s2.patrol block)).setWatch (forgetWatch s2.watch block)
    let s4 := s3.discardBlock block
    let s5 := s4.append { kind := .blockLost, block := some block, value := s4.xlat.lost.length }
    (s5.post (.commitRequest (lostParty req))).post (.healthReport (.lostLength s5.xlat.lost.length))

end Sys2Proof.Machine
end

