-- ==== Sys2Proof/Machine/RelocOps.lean ====
section
/-! DEFINITION. The relocation queue and the relocation engine (Chapter 6). -/

namespace Sys2Proof.Machine

/-- The queue and the engine take no action: the health state is FAILED, or their notice has been taken (R102, R109, R123, R157;
log 16). -/
def State.relocStopped (s : State) : Bool := s.reloc.failed || decide (s.health.state = .failed)

/-! ## The queue (R100 to R106) -/

/-- A RELOCATE_BLOCK command ends with this result at the queue or the engine (R122). -/
def State.endRelocate (s : State) (byManagement : Bool) (result : LongResult) (spare : Nat) : State :=
  if byManagement then s.post (.longCommandEnding .relocateBlock result spare) else s

/-- RELOC_DROPPED with its reason (Table 6-5). -/
def State.dropRequest (s : State) (block : Nat) (cause : RelocCause) (reason : Nat) : State :=
  s.append { kind := .relocDropped, block := some block, cause := some cause, value := reason }

/-- RELOC_QUEUED with the queue's length (Table 6-5). -/
def State.logQueued (s : State) (block : Nat) (cause : RelocCause) : State :=
  s.append { kind := .relocQueued, block := some block, cause := some cause, value := s.reloc.length }

/-- The engine, IDLE, is to take the head, entries waiting (R109). -/
def State.callEngine (s : State) : State :=
  if s.reloc.engine = .idle ∧ 0 < s.reloc.length ∧ s.health.state ≠ .failed then s.post .engineTakeHead else s

/-- A request for the block being migrated is ignored as an entry (R102): an internal one is logged, a PROGRAM_FAIL sets
src_failed, and a management one is attached to the relocation in flight. -/
def State.requestMigrating (s : State) (x : RelocRecord) (cause : RelocCause) : State :=
  match cause with
  | .management => s.setReloc { s.reloc with record := some { x with byManagement := true } }
  | .programFail =>
    (s.setReloc { s.reloc with record := some { x with srcFailed := true } }).dropRequest x.block .programFail 4
  | .uncorrectable => s.dropRequest x.block .uncorrectable 4
  | .corrThreshold => s.dropRequest x.block .corrThreshold 4

/-- A request merged into an entry (R103): the stronger cause, and requester management for a management request. -/
def mergeEntry (cause : RelocCause) (e : QueueEntry) : QueueEntry :=
  { e with
    cause := if causeStrength e.cause < causeStrength cause then cause else e.cause
    byManagement := e.byManagement || decide (cause = .management) }

/-- A request for a queued block merges into its entry, and may promote it to the urgent class (R103). -/
def State.mergeRequest (s : State) (block : Nat) (cause : RelocCause) : State :=
  match s.reloc.normal.find? (fun e => decide (e.block = block)) with
  | some e =>
    if isUrgent cause then
      (s.setReloc { s.reloc with
        normal := s.reloc.normal.filter fun f => f.block != block
        urgent := s.reloc.urgent ++ [mergeEntry cause e] }).logQueued block cause
    else
      s.setReloc { s.reloc with
        normal := s.reloc.normal.map fun f => if f.block = block then mergeEntry cause f else f }
  | none =>
    s.setReloc { s.reloc with
      urgent := s.reloc.urgent.map fun f => if f.block = block then mergeEntry cause f else f }

/-- A new entry joins the tail of its class (R104, R105): RELOC_QUEUED is appended, the block's watch entry is removed
(R93), and an IDLE engine of an empty queue is to take it (R109). -/
def State.enqueue (s : State) (block : Nat) (cause : RelocCause) : State :=
  let wasEmpty := decide (s.reloc.length = 0)
  let e : QueueEntry := { block := block, cause := cause, byManagement := decide (cause = .management) }
  let q := if isUrgent cause then { s.reloc with urgent := s.reloc.urgent ++ [e] }
    else { s.reloc with normal := s.reloc.normal ++ [e] }
  let s1 := (s.setReloc q).logQueued block cause
  let s2 := s1.setWatch (forgetWatch s1.watch block)
  if wasEmpty then s2.callEngine else s2

/-- The newest normal entry is displaced (R105). -/
def State.displace (s : State) (e : QueueEntry) : State :=
  ((s.setReloc { s.reloc with normal := s.reloc.normal.dropLast }).dropRequest e.block e.cause 2).endRelocate
    e.byManagement .dropped 0

/-- An urgent request for a block that is not queued (R105, R106); the addition to the lost list that a PROGRAM_FAIL asks for in a
queue full of urgent entries is made in the same happening (R106, Table 6-6; log 6). -/
def State.urgentRequest (s : State) (block : Nat) (cause : RelocCause) : State :=
  if s.reloc.length < Config.queueEntries then s.enqueue block cause
  else
    match s.reloc.normal.getLast? with
    | some e => (s.displace e).enqueue block cause
    | none =>
      let s1 := s.dropRequest block cause 3
      if cause = .programFail then s1.addLost block .queue else s1

/-- A normal request for a block that is not queued (R104). -/
def State.normalRequest (s : State) (block : Nat) (cause : RelocCause) : State :=
  if s.reloc.length < Config.normalReserve then s.enqueue block cause
  else (s.dropRequest block cause 1).endRelocate (decide (cause = .management)) .refused 0

/-- The queue takes a request (R102 to R106): the checks on the block's state, the merge, then the rules for a new
entry. A block the part does not have is in no request, and no request is made during start-up (log 3). -/
def State.takeRelocRequest (s : State) (block : Nat) (cause : RelocCause) : State :=
  if s.relocStopped = true ∨ s.loader.isLoading = true ∨ s.xlat.nb ≤ block then s
  else if s.xlat.isLost block then s.endRelocate (decide (cause = .management)) .lost 0
  else
    match s.reloc.record with
    | some x =>
      if x.block = block then s.requestMigrating x cause
      else if s.reloc.isQueued block then s.mergeRequest block cause
      else if isUrgent cause then s.urgentRequest block cause
      else s.normalRequest block cause
    | none =>
      if s.reloc.isQueued block then s.mergeRequest block cause
      else if isUrgent cause then s.urgentRequest block cause
      else s.normalRequest block cause

/-! ## Abandonment and return to IDLE (R116 to R119) -/

/-- The record is cleared and the engine returns to IDLE; it is to take the next head if entries wait (R109). -/
def State.engineIdle (s : State) : State :=
  (s.setReloc { s.reloc with engine := .idle, record := none, stepOut := false }).callEngine

/-- The relocation of the record is abandoned (R117): with src_failed the block is given up and added to the lost list in the
same happening (R119, Table 11-3; log 6), without it the block stays where it was (R118). -/
def State.abandon (s : State) (x : RelocRecord) (reason : Nat) : State :=
  let srcFailed := x.srcFailed || hasSrcFailed s.staging x.block
  let s1 := (s.setXlat (dropPending s.xlat x.block)).append
    { kind := .relocAbandoned, block := some x.block, cause := some x.cause, value := reason }
  if srcFailed then
    ((s1.setStaging { s1.staging with migrating := none }).setReloc { s1.reloc with
      engine := .commitWait
      stepOut := false
      record := some { x with spare := none, buffer := none, srcFailed := true, purpose := some .lost } }).addLost
        x.block .engine
  else
    ((s1.setStaging (abandonHolds s1.staging x.block)).endRelocate x.byManagement .abandoned 0).engineIdle

/-! ## Taking the head and preparing (R109, R110) -/

/-- The head of the queue: the oldest urgent entry, else the oldest normal one (R100). -/
def queueHead (r : Reloc) : Option QueueEntry :=
  match r.urgent with
  | e :: _ => some e
  | [] => r.normal.head?

/-- The queue without its head. -/
def dropHead (r : Reloc) : Reloc :=
  match r.urgent with
  | _ :: rest => { r with urgent := rest }
  | [] => { r with normal := r.normal.drop 1 }

/-- The record of a relocation just taken from the head (R109), with src_failed as R110 settles it. -/
def newRecord (e : QueueEntry) (srcFailed : Bool) : RelocRecord :=
  { block := e.block, cause := e.cause, byManagement := e.byManagement, source := none, spare := none, attempt := 1,
    cursor := 0, buffer := none, poisoned := 0, srcFailed := srcFailed, purpose := none }

/-- The relocation is prepared with an allocated spare (R110): the PENDING entry is made, the block is marked migrating,
and the engine enters PREPARE or COPY. -/
def State.prepare (s : State) (x : RelocRecord) (i : Nat) : State :=
  let source := relocSource s.xlat x.block
  let waits := s.staging.entries.any fun e => decide (e.block = x.block) && programming s.staging e
  let s1 := s.makePending x.block i
  let s2 := s1.setStaging (markMigrating s1.staging x.block)
  s2.setReloc { s2.reloc with
    engine := if waits then .prepare else .copy
    record := some { x with source := some source, spare := some i } }

/-- The IDLE engine takes the head of the queue and prepares the relocation (R109, R110). -/
def State.takeHead (s : State) : State :=
  if s.reloc.engine = .idle ∧ s.relocStopped = false then
    match queueHead s.reloc with
    | some e =>
      let s1 := s.setReloc (dropHead s.reloc)
      let x := newRecord e (hasSrcFailed s.staging e.block)
      match spareToAllocate s.xlat with
      | some i => (s1.prepare x i).settle
      | none => ((s1.setReloc { s1.reloc with record := some x }).abandon x 1).settle
    | none => s
  else s

/-- The engine in PREPARE takes the buffer's report (R111). -/
def State.endPrepare (s : State) (result : ProgramResult) : State :=
  if s.reloc.engine = .prepare ∧ s.relocStopped = false then
    match s.reloc.record with
    | some x =>
      (s.setReloc { s.reloc with
        engine := .copy
        record := some { x with srcFailed := x.srcFailed || decide (result = .fail) } }).arbitrate
    | none => s
  else s

/-! ## The copy (R112 to R115) -/

/-- The line buffer that a copy read fills (Table 6-3). -/
def lineBuffer (d : Delivered) : Line × Bool :=
  if d.isUncorrectable || d.poison then (zeroLine, true) else (d.bytes, false)

/-- An UNCORRECTABLE copy read: LINE_POISONED is appended and counted (R112, R160). -/
def State.copyPoisoned (s : State) (x : RelocRecord) : State :=
  ((s.count countUncorrectable).count countPoisoned).append
    { kind := .linePoisoned, block := some x.block, spare := x.spare, line := some x.cursor, value := x.attempt }

/-- The engine takes the answer of a copy read (R112); in FAILED it takes no action (R123). -/
def State.copyReadDone (s : State) (d : Delivered) : State :=
  let s0 := s.setReloc { s.reloc with stepOut := false }
  if s.relocStopped then s0
  else
    match s.reloc.engine, s.reloc.record with
    | .copy, some x =>
      let n := if d.isUncorrectable then x.poisoned + 1 else x.poisoned
      let s1 := if d.isUncorrectable then s0.copyPoisoned x else s0
      (s1.setReloc { s1.reloc with record := some { x with buffer := some (lineBuffer d), poisoned := n } }).arbitrate
    | _, _ => s0

/-- The copy is complete (R113, R28): the entry is marked, a commit is requested, and the engine waits for it. -/
def State.copyComplete (s : State) (x : RelocRecord) : State :=
  let s1 := s.setXlat (markCopied s.xlat x.block)
  (s1.setReloc { s1.reloc with
    engine := .commitWait
    record := some { x with buffer := none, purpose := some .switch } }).post (.commitRequest .engine)

/-- A spare program failed (R114): retry on a new spare, or abandonment. -/
def State.copyFailed (s : State) (x : RelocRecord) (sp : Nat) : State :=
  let retry := decide (x.attempt < 3)
  let (s1, u) := (s.count countProgramFailure).spareFailed x.block sp retry
  match u with
  | some u =>
    s1.setReloc { s1.reloc with
      record := some { x with spare := some u, attempt := x.attempt + 1, cursor := 0, poisoned := 0, buffer := none } }
  | none => s1.abandon x (if retry then 2 else 3)

/-- The engine takes the answer of a spare program (R113, R114); in FAILED it takes no action (R123). -/
def State.copyProgramDone (s : State) (r : ProgramResult) : State :=
  let s0 := s.setReloc { s.reloc with stepOut := false }
  if s.relocStopped then s0
  else
    match s.reloc.engine, s.reloc.record with
    | .copy, some x =>
      match r with
      | .done =>
        if x.cursor < 63 then
          (s0.setReloc { s0.reloc with record := some { x with buffer := none, cursor := x.cursor + 1 } }).arbitrate
        else s0.copyComplete x
      | .fail =>
        match x.spare with
        | some sp => (s0.copyFailed x sp).settle
        | none => s0
    | _, _ => s0

/-! ## Commit wait and release (R116, R119) -/

/-- The engine is released from COMMIT_WAIT by a completed commit it waits on (R116, R119): with purpose SWITCH by the one whose image
carried the switch of its block (R115), and the record's purpose goes with COMMIT_WAIT (R108). In FAILED it stays (R123). -/
def State.engineReleased (s : State) (switch : Option Nat) : State :=
  if s.relocStopped then s
  else
    match s.reloc.engine, s.reloc.record with
    | .commitWait, some x =>
      match x.purpose with
      | some .switch =>
        if switch = some x.block then
          (s.setReloc { s.reloc with engine := .release, record := some { x with purpose := none } }).post .relocationRelease
        else s
      | some .lost => (s.endRelocate x.byManagement .lost 0).engineIdle
      | none => s
    | _, _ => s

/-- The staging buffer takes the release, and the engine completes the relocation in the same happening (R116, R55). That a release handed
over before FAILED and taken after it leaves the holds as they are, since the stopped engine completes nothing (R123), is the model's choice
(log 40). -/
def State.releaseDone (s : State) : State :=
  if s.relocStopped then s
  else
    match s.reloc.engine, s.reloc.record with
    | .release, some x =>
      let s1 := s.setStaging (releaseHolds s.staging x.block)
      let s2 := (s1.append
        { kind := .relocDone, block := some x.block, spare := x.spare, cause := some x.cause,
          value := x.poisoned }).count countRelocation
      ((s2.endRelocate x.byManagement .relocated (x.spare.getD 0)).engineIdle).arbitrate
    | _, _ => s

/-! ## FAILED (R123) and ABORT (R107) -/

/-- The queue and the engine take the FAILED notice (R123); a pending RELOCATE_BLOCK ends FAILED in the same happening. -/
def State.failReloc (s : State) : State :=
  (s.setReloc { s.reloc with failed := true }).failLong .relocateBlock

/-- The queue entry whose requester is management (R122). -/
def managementEntry (r : Reloc) : Option QueueEntry :=
  match r.urgent.find? (·.byManagement) with
  | some e => some e
  | none => r.normal.find? (·.byManagement)

/-- The queue takes an ABORT (R107): a MANAGEMENT entry is removed, an entry of an internal cause becomes internal. -/
def abortQueued (r : Reloc) (e : QueueEntry) : Reloc :=
  if e.cause = .management then
    { r with
      urgent := r.urgent.filter fun f => f.block != e.block
      normal := r.normal.filter fun f => f.block != e.block }
  else
    { r with
      urgent := r.urgent.map fun f => if f.block = e.block then { f with byManagement := false } else f
      normal := r.normal.map fun f => if f.block = e.block then { f with byManagement := false } else f }

/-- The in-flight record carries the command (R107, R174). -/
def recordByManagement (r : Reloc) : Bool :=
  match r.record with
  | some x => x.byManagement
  | none => false

end Sys2Proof.Machine
end

