-- ==== Sys2Proof/Machine/StartupOps.lean ====
section
/-! DEFINITION. The commit unit's captures and the start-up loader (Chapter 7), up to the loader's result. -/

namespace Sys2Proof.Machine

/-! ## Field images (R126, R128) -/

/-- The state of a copy. -/
def copyState (c : CommitUnit) : CopyId → CopyState
  | .a => c.copyA
  | .b => c.copyB

/-- The copy an image is not written into. -/
def otherCopy : CopyId → CopyId
  | .a => .b
  | .b => .a

/-- The commit unit with the state of one copy set. -/
def setCopy (c : CommitUnit) (id : CopyId) (x : CopyState) : CommitUnit :=
  match id with
  | .a => { c with copyA := x }
  | .b => { c with copyB := x }

/-- The configuration values lie in the ranges of Table 7-1. -/
def settingsInRange (c : Settings) : Bool :=
  decide (c.writeMode ≤ 1) && decide (1 ≤ c.drainThreshold) && decide (c.drainThreshold ≤ 63) &&
  decide (1 ≤ c.ageTimer) && decide (c.ageTimer ≤ 500) && decide (1 ≤ c.corrThreshold) &&
  decide (c.corrThreshold ≤ 255) && decide (c.patrolEnable ≤ 1) && decide (10 ≤ c.patrolInterval) &&
  decide (c.patrolInterval ≤ 10000)

/-- The spares named by the remap entries are distinct, and are the spares in state IN_USE (R128). -/
def sparesAgree (i : FieldImage) : Bool :=
  decide (i.remap.map (·.2)).Nodup &&
  i.remap.all (fun e => decide (tableGet i.spares e.2 = some .inUse)) &&
  i.spares.all (fun e => decide (e.2 ≠ .inUse) || i.remap.any (fun r => decide (r.2 = e.1)))

/-- The counters lie in the range of Table 7-1 (R126, R160). -/
def countersInRange (c : Counters) : Bool :=
  decide (c.relocationsCompleted ≤ Config.counterMax) && decide (c.sparesRetired ≤ Config.counterMax) &&
  decide (c.linesPoisoned ≤ Config.counterMax) && decide (c.uncorrectableSeen ≤ Config.counterMax) &&
  decide (c.programFailuresSeen ≤ Config.counterMax)

/-- The listed spare states are those of a table of 2,048 spares, each FREE, IN_USE or RETIRED (R126; log 28). -/
def sparesInRange (i : FieldImage) : Bool :=
  tableSorted i.spares &&
  i.spares.all (fun e => decide (e.1 < Config.spareCount) && decide (e.2 ≠ .free) && decide (e.2 ≠ .pending))

/-- The checks of R128 on an image whose lines were all read, for a native block count `nb`. -/
def imageValid (nb : Nat) (i : FieldImage) : Bool :=
  i.formatOk && i.checkOk && decide (i.sequence ≠ 0) && settingsInRange i.config && countersInRange i.counters &&
  decide (i.remap.length ≤ 2048) && decide (i.lost.length ≤ 64) &&
  tableSorted i.remap && i.remap.all (fun e => decide (e.1 < nb) && decide (e.2 < Config.spareCount)) &&
  sparesAgree i && sparesInRange i &&
  rising i.lost && i.lost.all (fun b => decide (b < nb) && (tableGet i.remap b).isNone)

/-- A manufacturing record whose lines were all read is valid (R125, R24). -/
def mfgValid (r : MfgRecord) : Bool :=
  r.formatOk && r.checkOk && rising r.defects &&
  r.defects.all (fun d => decide (16 ≤ d) && decide (d ≤ 260095)) &&
  decide (r.defects.length ≤ Config.maxDefects) && decide (r.defects.length = r.count)

/-! ## Capture (R129, R132, R133) -/

/-- The target copy of a capture (R133). -/
def targetCopy (c : CommitUnit) : CopyId :=
  match c.holder with
  | some h => if copyState c (otherCopy h) = .ok then otherCopy h else h
  | none => if c.copyA = .ok then .a else .b

/-- The image that a capture into the target copy takes (R132). -/
def State.capturedImage (s : State) (target : CopyId) : FieldImage :=
  { formatOk := true
    checkOk := true
    sequence := s.commit.lastSeq + 1
    otherCopy := copyState s.commit (otherCopy target)
    config := s.commit.config
    elp := s.xlat.elp
    remap := renderedRemap s.xlat
    spares := renderedSpares s.xlat
    lost := s.xlat.lost
    counters := s.health.counters }

/-- The waiter list with a party's one entry, bound as given (R131). -/
def addWaiter (ws : List Waiter) (p : CommitParty) (current : Bool) : List Waiter :=
  ws.filter (fun w => decide (w.party ≠ p)) ++ [{ party := p, current := current }]

/-- The party of a commit request. -/
def requestParty : Instr → Option CommitParty
  | .commitRequest p => some p
  | _ => none

/-- The commit requests that other blocks have handed over and the unit has not taken were made before this happening: a capture in it
serves them (R131, R115, R119; log 22). -/
def State.joinRequests (s : State) : State :=
  (s.setCommit { s.commit with
    waiters := (s.posted.filterMap requestParty).foldl (fun ws p => addWaiter ws p true) s.commit.waiters }).setPosted
    (s.posted.filter fun c => (requestParty c).isNone)

/-- The image, its target, its sequence number and its switch are fixed, every waiter is bound to it, and the first program is offered
(R132). -/
def State.fixImage (s : State) : State :=
  let target := targetCopy s.commit
  s.setCommit { s.commit with
    lastSeq := s.commit.lastSeq + 1
    writing := some
      { target := target, step := 0, image := s.capturedImage target, switch := renderedSwitch s.xlat }
    followUp := false
    waiters := s.commit.waiters.map fun w => { w with current := true } }

/-- Capture (R132), with the requests made before it. -/
def State.capture (s : State) : State := s.joinRequests.fixImage

/-- The unit takes a commit request (R131): stopped, nothing follows; IDLE, it captures at once; WRITING, the follow-up flag
is set. -/
def State.takeCommitRequest (s : State) (p : CommitParty) : State :=
  if s.commit.stopped then s
  else
    match s.commit.writing with
    | none => ((s.setCommit { s.commit with waiters := addWaiter s.commit.waiters p true }).capture).arbitrate
    | some _ =>
      s.setCommit { s.commit with followUp := true, waiters := addWaiter s.commit.waiters p false }

/-! ## The result of start-up (R144, R147, R155, R83) -/

/-- The patrol scanner enters RUNNING and starts its timer, if it is RUNNING with these values (R147, R155). -/
def State.startTimer (s : State) : State :=
  if s.patrolState = .running then s.setPatrol { s.patrol with timer := some s.patrol.interval } else s

/-- The loader enters READY or FAILED and reports its result to the host port and the health block (R144, R83, R159). -/
def State.enterResult (s : State) (failed : Bool) : State :=
  let s1 := s.setLoader { s.loader with state := if failed then .failed else .ready, readOut := false }
  let s2 := s1.reportHealth
    (.startup failed s1.xlat.freeSpares s1.xlat.lost.length s1.commit.copyA s1.commit.copyB)
  (s2.openPort).startTimer.settle

/-! ## Loading (R140 to R143) -/

/-- The values set from an image at the owning blocks (R142): running settings, tables, counters, and the persistent
configuration record; ELp and EL as R36 gives. -/
def State.loadValues (s : State) (i : FieldImage) (elp : Nat) : State :=
  let c := i.config
  { s with
    staging := { s.staging with mode := modeOf c.writeMode, threshold := c.drainThreshold, ageTimer := c.ageTimer }
    watch := { s.watch with threshold := c.corrThreshold }
    patrol := { s.patrol with enable := decide (c.patrolEnable = 1), interval := c.patrolInterval }
    xlat := { s.xlat with
      remap := i.remap.map fun e => (e.1, { spare := e.2, state := .inUse })
      spares := i.spares
      lost := i.lost
      elp := elp
      el := elp
      frozen := false }
    health := { s.health with counters := i.counters }
    commit := { s.commit with config := c } }

/-- ELp as it is loaded (R36). -/
def loadedLimit (nb elp : Nat) : Nat := if elp = 0 ∨ nb < elp then nb else elp

/-- The chosen image is loaded (R142), and the loader enters READY. -/
def State.loadImage (s : State) (copy : CopyId) (i : FieldImage) : State :=
  let elp := loadedLimit s.xlat.nb i.elp
  let s1 := s.loadValues i elp
  let s2 := s1.setCommit
    { setCopy (setCopy s1.commit copy .ok) (otherCopy copy) i.otherCopy with
      newestSeq := i.sequence, lastSeq := i.sequence, holder := some copy, writing := none, followUp := false }
  let s3 := if elp = i.elp then s2 else s2.append { kind := .limitChanged, value := elp }
  s3.enterResult false

/-- The empty image of a first start (R143). -/
def emptyImage (nb : Nat) : FieldImage :=
  { formatOk := true, checkOk := true, sequence := 0, otherCopy := .ok, config := Config.defaultSettings, elp := nb,
    remap := [], spares := [], lost := [], counters := zeroCounters }

/-- A first start (R143): the values are set from the empty image and a commit is requested. -/
def State.firstStart (s : State) : State :=
  let s1 := s.loadValues (emptyImage s.xlat.nb) s.xlat.nb
  let s2 := s1.setCommit { s1.commit with copyA := .ok, copyB := .ok, newestSeq := 0, lastSeq := 0, holder := none }
  (s2.setLoader { s2.loader with task := .firstStart, readOut := false }).post (.commitRequest .loader)

/-- The choice of field image (Table 7-5). -/
def State.chooseImage (s : State) (a b : CopyClass) : State :=
  match a, b with
  | .valid i, .valid j => if j.sequence ≤ i.sequence then s.loadImage .a i else s.loadImage .b j
  | .valid i, .blank => s.loadImage .a i
  | .valid i, .invalid => s.loadImage .a i
  | .blank, .valid j => s.loadImage .b j
  | .invalid, .valid j => s.loadImage .b j
  | .blank, .blank => s.firstStart
  | .blank, .invalid => s.enterResult true
  | .invalid, .blank => s.enterResult true
  | .invalid, .invalid => s.enterResult true

/-- Copy A or B is classed (R141): the loader goes on to copy B, or chooses. -/
def State.classField (s : State) (c : CopyClass) : State :=
  match s.loader.task with
  | .fieldA =>
    (s.setLoader { s.loader with task := .fieldB, line := 0, image := none, classA := some c }).arbitrate
  | .fieldB => s.chooseImage (s.loader.classA.getD .invalid) c
  | .m0 => s
  | .m1 => s
  | .firstStart => s

/-- The image that the lines read so far belong to, with one more line (R128, log 11). -/
def nextImage (l : Loader) (c : LineContent) : Option FieldImage :=
  match c with
  | .image i k =>
    if k ≠ l.line then none
    else if l.line = 0 then some i
    else if l.image = some i then some i
    else none
  | .bytes _ => none
  | .mfg _ _ => none

/-- The manufacturing record that the lines read so far belong to, with one more line (R125, log 11). -/
def nextMfg (l : Loader) (c : LineContent) : Option MfgRecord :=
  match c with
  | .mfg r k =>
    if k ≠ l.line then none
    else if l.line = 0 then some r
    else if l.mfg = some r then some r
    else none
  | .bytes _ => none
  | .image _ _ => none

/-- The class of a copy of which the last line was read (R128). -/
def classOf (nb : Nat) : Option FieldImage → CopyClass
  | some i => if imageValid nb i then .valid i else .invalid
  | none => .invalid

/-- The loader takes the answer of a read of a field copy (R141). -/
def State.fieldLine (s : State) (d : Delivered) : State :=
  if s.loader.line = 0 ∧ d.isErased = true then s.classField .blank
  else if d.isUncorrectable || d.poison then s.classField .invalid
  else
    let i := nextImage s.loader d.content
    if s.loader.line < 447 then
      (s.setLoader { s.loader with line := s.loader.line + 1, image := i }).arbitrate
    else s.classField (classOf s.xlat.nb i)

/-- A manufacturing copy is not valid (R140): the loader reads M1 after M0, and enters FAILED after M1. -/
def State.mfgInvalid (s : State) : State :=
  match s.loader.task with
  | .m0 => (s.setLoader { s.loader with task := .m1, line := 0, mfg := none }).arbitrate
  | .m1 => s.enterResult true
  | .fieldA => s
  | .fieldB => s
  | .firstStart => s

/-- A valid manufacturing record is loaded (R140, R24), and the loader enters LOADING_FIELD. -/
def State.loadMfg (s : State) (r : MfgRecord) : State :=
  let s1 := s.setXlat { s.xlat with
    defects := r.defects, p := r.defects.length, nb := Config.dataBlocks - r.defects.length }
  (s1.setLoader { s1.loader with state := .loadingField, task := .fieldA, line := 0, image := none, classA := none }).arbitrate

/-- The loader takes the answer of a read of a manufacturing copy (R140). -/
def State.mfgLine (s : State) (d : Delivered) : State :=
  if d.isUncorrectable || d.poison then s.mfgInvalid
  else
    let r := nextMfg s.loader d.content
    if s.loader.line < 63 then
      (s.setLoader { s.loader with line := s.loader.line + 1, mfg := r }).arbitrate
    else
      match r with
      | some m => if mfgValid m then s.loadMfg m else s.mfgInvalid
      | none => s.mfgInvalid

/-- The loader takes the answer of its read (R140, R141), in LOADING_MFG or LOADING_FIELD. -/
def State.loaderAnswered (s : State) (d : Delivered) : State :=
  let s0 := s.setLoader { s.loader with readOut := false }
  if s.loader.isLoading then
    match s.loader.task with
    | .m0 => s0.mfgLine d
    | .m1 => s0.mfgLine d
    | .fieldA => s0.fieldLine d
    | .fieldB => s0.fieldLine d
    | .firstStart => s0
  else s0

/-! ## Power-on reset (R16, R139, R145, R186) -/

/-- The array when the power-on reset drives its reset input (R16): an operation it had begun is abandoned, and a program
cut short leaves its line unvouched (R5). -/
def abandonArrayOp (s : State) : ArrayState :=
  if s.port.record.isSome then endArrayOp s.array .fail else { s.array with op := none }

/-- A power-on reset (R16, R38, R64, R83, R98, R124, R130, R146, R159, R167, R168): every volatile state of every block is
lost; the array, the inputs and the commands waiting outside are kept. That the strap value stays what it was sampled last until
the next release samples it (R186) is the model's choice (log 13). -/
def State.powerCycle (s : State) : State :=
  { State.reset with
    pins := s.pins, array := abandonArrayOp s, freeCount := s.freeCount, pending := s.pending }

/-- The internal reset is released (R139, R185, R186): the straps are sampled, STARTUP is appended, and the loader's first
read is offered. -/
def State.startUp (s : State) (straps : Fin 4) : State :=
  let s1 := s.setPins { s.pins with strap := straps }
  (s1.append { kind := .startup, value := straps.val }).arbitrate

end Sys2Proof.Machine
end

