-- ==== Sys2Proof/Machine/CommitOps.lean ====
section
/-! DEFINITION. The metadata commit unit after capture (R134 to R138): steps, completion, copy failure, stop. -/

namespace Sys2Proof.Machine

/-! ## Waiters (R135, Table 7-3) -/

/-- A waiter is released by an image that carried this switch (Table 7-3). -/
def State.releaseWaiter (s : State) (switch : Option Nat) (p : CommitParty) : State :=
  match p with
  | .engine => s.engineReleased switch
  | .queue => s
  | .link =>
    match s.pendingLong with
    | some .setLimit => s.post (.longCommandEnding .setLimit .ok 0)
    | some .setConfig => s.post (.longCommandEnding .setConfig .ok 0)
    | some .flush => s
    | some .relocateBlock => s
    | none => s
  | .loader => if s.loader.state = .loadingField then s.enterResult false else s

/-- The waiters of a completed image are released, in the order of the list. -/
def State.releaseWaiters (s : State) (switch : Option Nat) : List Waiter → State
  | [] => s
  | w :: rest => (s.releaseWaiter switch w.party).releaseWaiters switch rest

/-- A commit completes (R135): the newest sequence and holder are recorded, the switch is applied, the waiters bound to the
image are released, and the follow-up, if flagged, is captured (R136). -/
def State.commitDone (s : State) (w : Writing) : State :=
  let bound := s.commit.waiters.filter (·.current)
  let s1 := s.setCommit { s.commit with
    newestSeq := w.image.sequence
    holder := some w.target
    writing := none
    waiters := s.commit.waiters.filter fun x => !x.current }
  let s2 := match w.switch with
    | some b => s1.applySwitch b
    | none => s1
  let s3 := s2.releaseWaiters w.switch bound
  if s3.commit.followUp then s3.capture.settle else s3.settle

/-! ## Copy failure and stop (R137, R138) -/

/-- A persistent SET_LIMIT or SET_CONFIG that waits on a commit ends FAILED in the happening of the stop (R138). -/
def State.failCommitCommand (s : State) : State :=
  (s.failLong .setLimit).failLong .setConfig

/-- The commit unit stops (R138). -/
def State.stopCommit (s : State) : State :=
  (s.setCommit { s.commit with stopped := true }).failCommitCommand

/-- A commit program failed (R137): the copy becomes FAILED; the image moves to the other copy, or the unit stops. -/
def State.copyFailure (s : State) (w : Writing) : State :=
  let k := imageLineOf w.step
  let s1 := (s.setCommit (setCopy s.commit w.target .failed)).append
    { kind := .metadataCopyFailed, line := some (k % 64), value := imageBlock w.target k }
  let s2 := (s1.count countProgramFailure).post (.healthReport (.copyStates s1.commit.copyA s1.commit.copyB))
  let other := otherCopy w.target
  if copyState s2.commit other = .ok then
    (s2.setCommit { s2.commit with
      lastSeq := s2.commit.lastSeq + 1
      writing := some { w with
        target := other
        step := 0
        image := { w.image with sequence := s2.commit.lastSeq + 1, otherCopy := .failed } } }).arbitrate
  else s2.stopCommit

/-- The unit takes the answer of its program (R134); once stopped, or in FAILED, it takes it without effect (R138, R38, log 16). -/
def State.commitAnswered (s : State) (r : ProgramResult) : State :=
  let s0 := s.setCommit { s.commit with progOut := false }
  if s.commit.stopped = true ∨ s.health.state = .failed then s0
  else
    match s.commit.writing with
    | some w =>
      match r with
      | .done =>
        if w.step < 447 then
          (s0.setCommit { s0.commit with writing := some { w with step := w.step + 1 } }).arbitrate
        else s0.commitDone w
      | .fail => s0.copyFailure w
    | none => s0

/-! ## The drain's answers (R51 to R54, R61) -/

/-- The entry the buffer's operation is for, if it is still in the buffer. -/
def State.drainEntry (s : State) : Option Entry :=
  match s.staging.drainOp with
  | some op => s.staging.entries.find? fun e => decide (e.order = op.order)
  | none => none

/-- The merged line that a read-modify-write read builds (R51). -/
def mergedLine (e : Entry) (d : Delivered) : Line × Bool :=
  (overlay e.mask e.data d.bytes, d.isUncorrectable || d.poison)

/-- The buffer takes its FAILED notice before the answer of an operation of its own (R62): an outcome that raises a counter is not handed on
in FAILED (R161), so that it finds its entry discarded and is dropped (R61; log 17). -/
def State.discardFirst (s : State) : State := ((s.unpost .stagingFailedDiscard).discardAll).settle

/-- The buffer takes the answer of a read-modify-write read: the merged line is built (R51); for an entry marked migrating
only the outcome is handled (R54); for an entry that was discarded nothing is (R61). In FAILED an UNCORRECTABLE answer is taken after the
discard (R161, R62; log 17). -/
def State.rmwAnswered (s : State) (d : Delivered) : State :=
  let s0 := s.setStaging { s.staging with drainOp := none }
  match s.drainEntry with
  | none => s0.arbitrate
  | some e =>
    if s.health.state = .failed ∧ d.isUncorrectable = true then s0.discardFirst
    else if e.state = .issued then
      let entries := s0.staging.entries.map fun f =>
        if f.order = e.order then { f with merged := some (mergedLine e d) } else f
      let s1 := s0.setStaging { s0.staging with entries := entries }
      let s2 := if d.isUncorrectable then
          (s1.count countPoisoned).append
            { kind := .linePoisoned, block := some e.block, line := some (offsetOf e.line), value := 0 }
        else s1
      (s2.handOn e.block d).arbitrate
    else (s0.handOn e.block d).arbitrate

/-- The engine in PREPARE for the block is told the end of its drain program (R111). -/
def State.reportPrepare (s : State) (block : Nat) (r : ProgramResult) : State :=
  if s.reloc.engine = .prepare ∧ s.reloc.isMigrating block then s.post (.prepareEnd r) else s

/-- An entry is freed after DONE (R52): its tags are answered DURABLE and the barrier list is examined. -/
def State.freeEntry (s : State) (e : Entry) : State :=
  let s1 := s.setStaging { s.staging with entries := s.staging.entries.filter fun f => decide (f.order ≠ e.order) }
  (s1.answerWrites .durable e.tags).examineBarriers

/-- The buffer takes the answer of a drain program (R52, R53); for an entry that was discarded nothing is done (R61). In FAILED a FAIL is
taken after the discard (R161, R62; log 17). -/
def State.drainAnswered (s : State) (r : ProgramResult) : State :=
  let s0 := s.setStaging { s.staging with drainOp := none }
  match s.drainEntry with
  | none => s0.arbitrate
  | some e =>
    match r with
    | .done => ((s0.freeEntry e).reportPrepare e.block .done).settle
    | .fail =>
      if s.health.state = .failed then s0.discardFirst
      else
        let s1 := s0.setStaging { s0.staging with
          entries := s0.staging.entries.map (failEntry s0.staging e.block e.order) }
        (((s1.count countProgramFailure).reportPrepare e.block .fail).post
          (.relocRequest e.block .programFail)).arbitrate

end Sys2Proof.Machine
end

