-- ==== Sys2Proof/Machine/PatrolOps.lean ====
section
/-! DEFINITION. The patrol scanner (Chapter 8). -/

namespace Sys2Proof.Machine

/-- A pass ends (R149): the count rises, PATROL_PASS_DONE is appended, the watch table is halved (R95), and the position
becomes line 0 of block 0. The count stays at its highest value, since it does not return to 0 (R146, log 21). -/
def State.endPass (s : State) : State :=
  let n := countUp s.patrol.passCount
  ((s.setPatrol { s.patrol with passCount := n, block := 0, line := 0 }).append
    { kind := .patrolPassDone, value := n }).setWatch (passWatch s.watch)

/-- The position moves to line 0 of the next block; past block NB − 1 the pass ends (R148, R149). -/
def State.nextBlock (s : State) : State :=
  if s.patrol.block + 1 < s.xlat.nb then s.setPatrol { s.patrol with block := s.patrol.block + 1, line := 0 }
  else s.endPass

/-- The skip (R148): while the position's block is lost or being migrated, the position moves to the next block. The first
argument bounds the number of blocks passed over. -/
def State.skipBlocks : Nat → State → State
  | 0, s => s
  | n + 1, s => if s.patrolSkips s.patrol.block then (s.nextBlock).skipBlocks n else s

/-- The advance (R148): the next line of the block, and after line 63 line 0 of the next block. -/
def State.nextLine (s : State) : State :=
  if s.patrol.line < 63 then s.setPatrol { s.patrol with line := s.patrol.line + 1 } else s.nextBlock

/-- The scanner takes an expiry (R147, R148): the next deadline is set, and with the outstanding flag clear it skips,
offers a read of the position and advances. -/
def State.patrolExpired (s : State) : State :=
  if s.patrolState = .running ∧ s.patrol.timer.isSome then
    let s0 := s.setPatrol { s.patrol with timer := some s.patrol.interval }
    if s0.patrol.outstanding.isSome then s0
    else
      let s1 := s0.skipBlocks (s0.xlat.lost.length + 2)
      let s2 := s1.setPatrol { s1.patrol with
        outstanding := some { block := s1.patrol.block, line := s1.patrol.line, issued := false } }
      (s2.nextLine).arbitrate
  else s

/-- The outcome of a patrol read is handed on (R150): as for a host read, but an UNCORRECTABLE outcome with the poison flag
set makes no relocation request. -/
def State.patrolHandOn (s : State) (block : Nat) (d : Delivered) : State :=
  if d.isUncorrectable && d.poison then s.count countUncorrectable else s.handOn block d

/-- The scanner takes the answer of its read (R150); in HALTED it hands nothing on (R154). -/
def State.patrolAnswered (s : State) (d : Delivered) : State :=
  match s.patrol.outstanding with
  | some r =>
    let s1 := s.setPatrol { s.patrol with outstanding := none }
    if s.patrolState = .halted then s1 else s1.patrolHandOn r.block d
  | none => s

/-- The scanner enters PAUSED and stops its timer, if it is no longer RUNNING (R147, R152, R153). -/
def State.stopTimer (s : State) : State :=
  if s.patrolState = .running then s else s.setPatrol { s.patrol with timer := none }

/-- The scanner takes a change of control or enable: entering RUNNING from another state starts the timer, leaving it stops
the timer, and the deadline is otherwise not moved (R147, R152, R153). -/
def State.changePatrol (s : State) (p : Patrol) : State :=
  let s1 := s.setPatrol p
  if s.patrolState = .running then s1.stopTimer else s1.startTimer

/-- The scanner takes the FAILED notice (R154). -/
def haltPatrol (p : Patrol) : Patrol :=
  { p with
    timer := none
    outstanding := match p.outstanding with
      | some r => if r.issued then some r else none
      | none => none }

end Sys2Proof.Machine
end

