-- ==== Sys2Proof/Machine/LinkOps.lean ====
section
/-! DEFINITION. The management link (Chapter 10): frames, retries, the checks of Table 10-1, responses and the long command
record. -/

namespace Sys2Proof.Machine

/-! ## Codes (Table 10-7, section 10.7) -/

/-- The commands of Table 10-7. -/
inductive MgmtCode where
  | getStatus
  | getResult
  | getConfig
  | readLog
  | readRemap
  | readLost
  | readWatch
  | readQueue
  | ackAlert
  | abort
  | setConfig
  | setLimit
  | freezeLimit
  | patrolControl
  | flush
  | relocateBlock
  deriving DecidableEq, Repr

/-- The command code (Table 10-7). -/
def codeByte : MgmtCode → Byte
  | .getStatus => 1
  | .getResult => 2
  | .getConfig => 3
  | .readLog => 4
  | .readRemap => 5
  | .readLost => 6
  | .readWatch => 7
  | .readQueue => 8
  | .ackAlert => 9
  | .abort => 10
  | .setConfig => 16
  | .setLimit => 17
  | .freezeLimit => 18
  | .patrolControl => 19
  | .flush => 32
  | .relocateBlock => 33

/-- The parameter length (Table 10-7). -/
def paramLength : MgmtCode → Nat
  | .getStatus => 0
  | .getResult => 0
  | .getConfig => 0
  | .readLog => 4
  | .readRemap => 2
  | .readLost => 1
  | .readWatch => 1
  | .readQueue => 0
  | .ackAlert => 0
  | .abort => 0
  | .setConfig => 4
  | .setLimit => 4
  | .freezeLimit => 0
  | .patrolControl => 1
  | .flush => 0
  | .relocateBlock => 3

/-- The command a code names (Table 10-7). -/
def mgmtCodeOf (code : Nat) : Option MgmtCode :=
  match code with
  | 1 => some .getStatus
  | 2 => some .getResult
  | 3 => some .getConfig
  | 4 => some .readLog
  | 5 => some .readRemap
  | 6 => some .readLost
  | 7 => some .readWatch
  | 8 => some .readQueue
  | 9 => some .ackAlert
  | 10 => some .abort
  | 16 => some .setConfig
  | 17 => some .setLimit
  | 18 => some .freezeLimit
  | 19 => some .patrolControl
  | 32 => some .flush
  | 33 => some .relocateBlock
  | _ => none

/-- The command is answered in health FAILED: GET_STATUS, GET_RESULT, GET_CONFIG, the READ commands, ACK_ALERT (Table 10-1,
check 4). -/
def takenInFailed : MgmtCode → Bool
  | .getStatus | .getResult | .getConfig | .readLog | .readRemap | .readLost | .readWatch | .readQueue | .ackAlert => true
  | .abort | .setConfig | .setLimit | .freezeLimit | .patrolControl | .flush | .relocateBlock => false

/-- The command is BUSY while a long command is PENDING (Table 10-1, check 5). -/
def waitsOnLong : MgmtCode → Bool
  | .flush | .relocateBlock | .setLimit | .setConfig | .patrolControl => true
  | .getStatus | .getResult | .getConfig | .readLog | .readRemap | .readLost | .readWatch | .readQueue | .ackAlert
  | .abort | .freezeLimit => false

/-- The statuses of a response (section 10.7). -/
inductive FrameStatus where
  | ok
  | pending
  | busy
  | badCheck
  | badCmd
  | badParam
  | frozen
  | refused
  | notReady
  | failed
  | noResponse
  deriving DecidableEq, Repr

/-- The status code (section 10.7). -/
def statusByte : FrameStatus → Byte
  | .ok => 0
  | .pending => 1
  | .busy => 2
  | .badCheck => 3
  | .badCmd => 4
  | .badParam => 5
  | .frozen => 6
  | .refused => 7
  | .notReady => 8
  | .failed => 9
  | .noResponse => 10

/-! ## Frames (Table 10-6) -/

/-- The bytes of a frame: code, sequence byte, length, contents, check byte; the form of commands and responses alike. -/
def frameBytes (code seq : Byte) (contents : List Byte) : List Byte :=
  let b := code :: seq :: BitVec.ofNat 8 contents.length :: contents
  b ++ [crc8 b]

/-- A response frame. -/
def responseFrame (status : FrameStatus) (seq : Byte) (payload : List Byte) : List Byte :=
  frameBytes (statusByte status) seq payload

/-- The frame that a read transaction returns (R169, R170). -/
def readableFrame (l : Link) : List Byte :=
  match l.readable with
  | .none => responseFrame .noResponse 0 []
  | .cached => l.cached
  | .badCheck echo => responseFrame .badCheck echo []

/-- The part's link address, 7 bits, selected by the straps sampled at the last release (R185). -/
def State.linkAddress (s : State) : Nat := 88 + s.pins.strap.val

/-- The part acknowledges a transaction to this address: it is its own link address, and no reset holds (R168, R185, R186). -/
def State.acknowledges (s : State) (address : Nat) : Bool := !s.inReset && decide (address = s.linkAddress)

/-- A read transaction of `n` bytes from an address: the bytes of the readable response, then bytes of 255; none when the part does not
acknowledge. It changes nothing (R168, R170, R185). -/
def State.readTransaction (s : State) (address n : Nat) : Option (List Byte) :=
  if s.acknowledges address then some ((List.range n).map fun i => (readableFrame s.link).getD i 255) else none

/-! ## Taking a frame (R170, R171) -/

/-- What a command taken at the link leaves and answers. -/
structure Reply where
  state : State
  status : FrameStatus
  payload : List Byte

/-- A command that is refused: nothing changes, payload length 0. -/
def State.refuse (s : State) (status : FrameStatus) : Reply := { state := s, status := status, payload := [] }

/-- A command that is answered OK with a payload and changes nothing. -/
def State.inform (s : State) (payload : List Byte) : Reply := { state := s, status := .ok, payload := payload }

/-- The response is built and becomes the cached and the readable response; the sequence byte becomes the last sequence
(R170). -/
def Reply.finish (r : Reply) (seq : Byte) : State :=
  r.state.setLink { r.state.link with
    lastSeq := some seq, cached := responseFrame r.status seq r.payload, readable := .cached }

/-- A frame that is not damaged reaches the link (R170): a retry is answered from the cached response, any other frame is
taken. No frame is received while the reset holds (R168). -/
def State.receive (s : State) (seq : Byte) (take : State → Reply) : State :=
  s.whenUp fun s =>
    if s.link.lastSeq = some seq then s.setLink { s.link with readable := .cached } else (take s).finish seq

/-- Checks 2 to 5 of Table 10-1, in order. -/
def State.checkFrame (s : State) (c : MgmtCode) (params : List Byte) : Option FrameStatus :=
  if params.length ≠ paramLength c then some .badParam
  else if s.loader.isLoading = true ∧ c ≠ .getStatus then some .notReady
  else if s.health.state = .failed ∧ takenInFailed c = false then some .failed
  else if s.pendingLong.isSome = true ∧ waitsOnLong c = true then some .busy
  else none

/-- A frame with a code of Table 10-7 is taken: the first check that matches gives the status, else its own rule does
(R171). -/
def State.checked (s : State) (c : MgmtCode) (params : List Byte) (body : State → Reply) : Reply :=
  match s.checkFrame c params with
  | some status => s.refuse status
  | none => body s

/-- A frame with a code of Table 10-7 reaches the link (R170, R171). -/
def State.takeFrame (s : State) (c : MgmtCode) (seq : Byte) (params : List Byte) (body : State → Reply) : State :=
  s.receive seq fun s => s.checked c params body

/-- A long command is accepted (R172): its record replaces an ENDED one. An ending of an earlier command that the link has
not taken has nothing left to end (R174). -/
def State.acceptLong (s : State) (code : LongCode) (seq : Byte) : State :=
  (s.setPosted (s.posted.filter fun c => !isEnding c)).setLink
    { s.link with long := some { code := code, seq := seq, ended := none, spare := 0 } }

/-! ## Payloads (Tables 10-7 to 10-10) -/

/-- A flag as a number. -/
def bitOf (b : Bool) : Nat := if b then 1 else 0

/-- The code of the start-up state (Table 10-8). -/
def startupCode : StartupState → Nat
  | .loadingMfg => 0
  | .loadingField => 1
  | .ready => 2
  | .failed => 3

/-- The code of the engine state (Table 10-8). -/
def engineCode : EngineState → Nat
  | .idle => 0
  | .prepare => 1
  | .copy => 2
  | .commitWait => 3
  | .release => 4

/-- The code of the patrol state (Table 10-8). -/
def patrolCode : PatrolState → Nat
  | .standby => 0
  | .running => 1
  | .paused => 2
  | .halted => 3

/-- The flags of GET_STATUS (Table 10-8, byte 2). -/
def State.statusFlags (s : State) : Nat :=
  bitOf s.log.alert + 2 * bitOf s.xlat.frozen + 4 * bitOf (decide (s.commit.copyA = .failed)) +
    8 * bitOf (decide (s.commit.copyB = .failed))

/-- The block of the engine, 0 while it is IDLE (R175). -/
def engineBlock (r : Reloc) : Nat :=
  match r.engine, r.record with
  | .idle, _ => 0
  | _, some x => x.block
  | _, none => 0

/-- The 58 bytes of GET_STATUS (R175, Table 10-8). -/
def State.statusPayload (s : State) : List Byte :=
  leBytes 1 (startupCode s.loader.state) ++ leBytes 1 (healthCode s.health.state) ++ leBytes 1 s.statusFlags ++
  leBytes 2 s.xlat.p ++ leBytes 3 s.xlat.nb ++ leBytes 3 s.xlat.el ++ leBytes 3 s.xlat.elp ++
  leBytes 2 s.xlat.freeSpares ++ leBytes 2 s.xlat.remap.length ++
  leBytes 1 s.xlat.lost.length ++ leBytes 1 (occupancy s.staging) ++ leBytes 1 s.staging.hostSlots.length ++
  leBytes 1 s.host.readTags.length ++
  leBytes 1 (engineCode s.reloc.engine) ++ leBytes 3 (engineBlock s.reloc) ++
  leBytes 1 s.reloc.length ++ leBytes 1 s.watch.entries.length ++
  leBytes 1 (patrolCode s.patrolState) ++ leBytes 3 s.patrol.block ++ leBytes 1 s.patrol.line ++
  leBytes 4 s.patrol.passCount ++
  leBytes 1 (match s.pendingLong with | some c => longCodeByte c | none => 0) ++
  leBytes 4 s.health.counters.relocationsCompleted ++ leBytes 4 s.health.counters.sparesRetired ++
  leBytes 4 s.health.counters.linesPoisoned ++ leBytes 4 s.health.counters.uncorrectableSeen ++
  leBytes 4 s.health.counters.programFailuresSeen

/-- One group of six settings (Table 10-7, GET_CONFIG). -/
def settingsBytes (c : Settings) : List Byte :=
  leBytes 1 c.writeMode ++ leBytes 1 c.drainThreshold ++ leBytes 2 c.ageTimer ++ leBytes 1 c.corrThreshold ++
  leBytes 1 c.patrolEnable ++ leBytes 2 c.patrolInterval

/-- The running values in force at the owning blocks (R176). -/
def State.runningSettings (s : State) : Settings :=
  { writeMode := modeCode s.staging.mode
    drainThreshold := s.staging.threshold
    ageTimer := s.staging.ageTimer
    corrThreshold := s.watch.threshold
    patrolEnable := bitOf s.patrol.enable
    patrolInterval := s.patrol.interval }

/-- The presence byte of an event record (Table 10-9, byte 5). -/
def presenceByte (b : EventBody) : Nat :=
  bitOf b.block.isSome + 2 * bitOf b.spare.isSome + 4 * bitOf b.line.isSome + 8 * bitOf b.cause.isSome +
    16 * (match b.cause with | some c => causeCode c | none => 0)

/-- The 16 bytes of an event record (Table 10-9). -/
def eventBytes (r : EventRecord) : List Byte :=
  leBytes 4 r.sequence ++ leBytes 1 (kindCode r.body.kind) ++ leBytes 1 (presenceByte r.body) ++
  leBytes 3 (r.body.block.getD 0) ++ leBytes 2 (r.body.spare.getD 0) ++ leBytes 1 (r.body.line.getD 0) ++
  leBytes 4 r.body.value

/-- A record stands at or after a starting sequence (R164). -/
def standsAtOrAfter (start sequence : Nat) : Bool :=
  decide ((sequence + 4294967296 - start) % 4294967296 < 2147483648)

/-- The records that READ_LOG returns (R164). -/
def logPage (l : EventLog) (start : Nat) : List EventRecord :=
  (l.records.filter fun r => standsAtOrAfter start r.sequence).take 4

/-- The 9 bytes of a remap entry (Table 10-10). -/
def remapBytes (e : Nat × RemapEntry) : List Byte :=
  leBytes 3 e.1 ++ leBytes 2 e.2.spare ++
  match e.2.state with
  | .inUse => leBytes 1 0 ++ leBytes 1 0 ++ leBytes 2 0
  | .pending prior done =>
    leBytes 1 1 ++ leBytes 1 (bitOf prior.isSome + 2 * bitOf done) ++ leBytes 2 (prior.getD 0)

/-- The 6 bytes of a watch entry at a recency position (Table 10-7). -/
def watchBytes (e : WatchEntry × Nat) : List Byte :=
  leBytes 3 e.1.block ++ leBytes 1 e.1.count ++ leBytes 1 e.1.lastBits ++ leBytes 1 e.2

/-- The 4 bytes of a queue entry of a class (Table 10-7). -/
def queueBytes (cls : Nat) (e : QueueEntry) : List Byte :=
  leBytes 3 e.block ++ leBytes 1 (causeCode e.cause + 4 * cls + 8 * bitOf e.byManagement)

/-- The payload of READ_REMAP (R177). -/
def remapPage (x : Xlat) (first : Nat) : List Byte :=
  leBytes 2 x.remap.length ++ leBytes 2 first ++ ((x.remap.drop first).take 6).flatMap remapBytes

/-- The payload of READ_LOST (R177). -/
def lostPage (x : Xlat) (first : Nat) : List Byte :=
  leBytes 1 x.lost.length ++ ((x.lost.drop first).take 21).flatMap (leBytes 3)

/-- The payload of READ_WATCH (R177, R99). -/
def watchPage (w : Watch) (first : Nat) : List Byte :=
  leBytes 1 w.entries.length ++ ((w.entries.zipIdx.drop first).take 10).flatMap watchBytes

/-- The payload of READ_QUEUE (R177). -/
def queuePage (r : Reloc) : List Byte := r.urgent.flatMap (queueBytes 0) ++ r.normal.flatMap (queueBytes 1)

/-! ## The commands' own rules -/

/-- GET_RESULT (R172). -/
def State.reportResult (s : State) : Reply :=
  match s.link.long with
  | none => s.refuse .refused
  | some r =>
    match r.ended with
    | none => { state := s, status := .pending, payload := [BitVec.ofNat 8 (longCodeByte r.code), r.seq] }
    | some result =>
      s.inform ([BitVec.ofNat 8 (longCodeByte r.code), r.seq] ++ leBytes 1 (resultCode result) ++ leBytes 2 r.spare)

/-- ABORT (R174, R107, R60). -/
def State.abortLong (s : State) : Reply :=
  match s.pendingLong with
  | none => s.refuse .refused
  | some .setLimit => s.refuse .refused
  | some .setConfig => s.refuse .refused
  | some .flush => ((s.setStaging { s.staging with flushSlot := none }).endLong .flush .aborted 0).inform []
  | some .relocateBlock =>
    if recordByManagement s.reloc then s.refuse .refused
    else
      match managementEntry s.reloc with
      | some e => ((s.setReloc (abortQueued s.reloc e)).endLong .relocateBlock .aborted 0).inform []
      | none => (s.endLong .relocateBlock .aborted 0).inform []

/-- SET_CONFIG of one item (R179): the three checks, CONFIG_CHANGED, the owner's change, and, when persistent, the
configuration record and a commit request. A frame whose item is not the row's is one whose item is not in Table 10-4
(log 19). -/
def State.setConfig (s : State) (seq : Byte) (params : List Byte) (item low high : Nat)
    (store : Settings → Nat → Settings) (apply : State → Nat → State) : Reply :=
  let flag := paramByte params 1
  let v := paramNat params 2 2
  if paramByte params 0 ≠ item ∨ 1 < flag ∨ v < low ∨ high < v then s.refuse .badParam
  else
    let s1 := apply (s.append { kind := .configChanged, value := configChangedValue item flag v }) v
    if flag = 0 then s1.inform []
    else
      { state := ((s1.setCommit { s1.commit with config := store s1.commit.config v }).acceptLong .setConfig seq).post
          (.commitRequest .link)
        status := .pending
        payload := [] }

/-- SET_LIMIT (R180, R37). -/
def State.setLimit (s : State) (seq : Byte) (params : List Byte) : Reply :=
  let v := paramNat params 0 3
  let flag := paramByte params 3
  if s.xlat.frozen then s.refuse .frozen
  else if 1 < flag ∨ v = 0 ∨ s.xlat.nb < v then s.refuse .badParam
  else
    let s1 := (s.setXlat { s.xlat with el := v, elp := if flag = 1 then v else s.xlat.elp }).append
      { kind := .limitChanged, value := v }
    if flag = 0 then s1.inform []
    else { state := (s1.acceptLong .setLimit seq).post (.commitRequest .link), status := .pending, payload := [] }

/-- PATROL_CONTROL with one action (R182, R152). -/
def State.controlPatrol (s : State) (params : List Byte) (action : Nat) (p : Patrol) : Reply :=
  if paramByte params 0 ≠ action then s.refuse .badParam else (s.changePatrol p).inform []

/-- FLUSH (R183, R59): a record with nothing to wait for ends in the same happening (R172). -/
def State.startFlush (s : State) (seq : Byte) : Reply :=
  { state := ((s.acceptLong .flush seq).placeFlush).takeEndings.settle, status := .pending, payload := [] }

/-- RELOCATE_BLOCK (R184): the request reaches the queue in the same happening. -/
def State.startRelocate (s : State) (seq : Byte) (params : List Byte) : Reply :=
  let b := paramNat params 0 3
  if s.xlat.nb ≤ b then s.refuse .badParam
  else
    { state := ((s.acceptLong .relocateBlock seq).takeRelocRequest b .management).takeEndings
      status := .pending
      payload := [] }

end Sys2Proof.Machine
end

