-- ==== Sys2Proof/WellFormed.lean ====
section
/-! DEFINITION. The operands with which a command occurs: a decidable check for each command. A command that fails its check
has no effect, or is answered BADPARAM or BADCMD where the manual says so (log 3, log 19). -/

namespace Sys2Proof

open Sys2Proof.Machine

/-- The parameters fit a command frame (Table 10-6). -/
def paramsFit (params : List Byte) : Bool := decide (params.length ≤ 32)

/-- The number of corrected bits that a delivered CORRECTED outcome has (Table 1-2). -/
def bitsInRange (bits : Nat) : Bool := decide (1 ≤ bits) && decide (bits ≤ 4)

/-- A logical block of the data region (Table 0-2a). -/
def blockInRange (block : Nat) : Bool := decide (block < Config.dataBlocks)

/-- The fields of an event record are in the ranges of R162. -/
def eventFieldsFit (b : EventBody) : Bool :=
  b.block.all blockInRange && b.spare.all (fun n => decide (n < Config.spareCount)) && b.line.all (fun n => decide (n < 64)) &&
    decide (b.value < 4294967296)

/-- The endings of Table 10-2 that each command may have; a spare index comes with RELOCATED alone (R173). -/
def endingFits (code : LongCode) (result : LongResult) (spare : Nat) : Bool :=
  (decide (result = .relocated) || decide (spare = 0)) && decide (spare < Config.spareCount) &&
  match code, result with
  | .flush, .ok => true
  | .flush, .dataLost => true
  | .relocateBlock, .relocated => true
  | .relocateBlock, .abandoned => true
  | .relocateBlock, .lost => true
  | .relocateBlock, .refused => true
  | .relocateBlock, .dropped => true
  | .setLimit, .ok => true
  | .setConfig, .ok => true
  | _, _ => false

/-- The frame is SET_CONFIG of the item (Table 10-4). -/
def isItem (params : List Byte) (item : Nat) : Bool := decide (params.length = 4) && decide (paramByte params 0 = item)

/-- The frame is PATROL_CONTROL with the action (R182). -/
def isAction (params : List Byte) (action : Nat) : Bool :=
  decide (params.length = 1) && decide (paramByte params 0 = action)

/-- A SET_CONFIG frame that is no other row's: item 1, an item not in Table 10-4, or another length (log 19). -/
def isItemOne (params : List Byte) : Bool :=
  paramsFit params && !isItem params 2 && !isItem params 3 && !isItem params 4 && !isItem params 5 && !isItem params 6

/-- A PATROL_CONTROL frame that is no other row's: action 0, another action or another length (log 19). -/
def isActionZero (params : List Byte) : Bool := paramsFit params && !isAction params 1 && !isAction params 2

/-- The cause of a request that another block hands to the queue: MANAGEMENT requests come with RELOCATE_BLOCK (R184). -/
def isInternalCause : RelocCause → Bool
  | .programFail => true
  | .uncorrectable => true
  | .corrThreshold => true
  | .management => false

/-- The operands with which the command occurs. -/
def Instr.wellFormed : Instr → Bool
  | .powerOnReset => true
  | .powerOnResetRelease _ => true
  | .supplyFall => true
  | .supplyRestoration _ => true
  | .hostLinkResetAssert => true
  | .hostLinkResetRelease => true
  | .read _ _ => true
  | .write _ _ _ _ => true
  | .barrier _ => true
  | .responseTaken => true
  | .mediaAnswer _ _ _ => true
  | .mediaTimeout _ _ => true
  | .hostReadAnswer => true
  | .rmwReadAnswer => true
  | .drainProgramAnswer => true
  | .copyReadAnswer => true
  | .copyProgramAnswer => true
  | .commitProgramAnswer => true
  | .patrolReadAnswer => true
  | .loaderReadAnswer => true
  | .ageDeadlineExpiry _ => true
  | .patrolExpiry => true
  | .engineTakeHead => true
  | .prepareEnd _ => true
  | .relocationRelease => true
  | .relocRequest block cause => blockInRange block && isInternalCause cause
  | .commitRequest _ => true
  | .watchReport block bits => blockInRange block && bitsInRange bits
  | .lostBlockAddition block _ => blockInRange block
  | .healthReport _ => true
  | .eventAppend body => eventFieldsFit body
  | .stagingFailedDiscard => true
  | .hostPortFailed => true
  | .watchTableFailed => true
  | .relocationFailed => true
  | .commitUnitStop => true
  | .patrolHalt => true
  | .loaderFailedNotice => true
  | .longCommandEnding code result spare => endingFits code result spare
  | .damagedFrame frame => frameDamaged frame && !frame.isEmpty
  | .unknownCommand code _ params => paramsFit params && (mgmtCodeOf code.toNat).isNone
  | .getStatus _ params => paramsFit params
  | .getResult _ params => paramsFit params
  | .getConfig _ params => paramsFit params
  | .readLog _ params => paramsFit params
  | .readRemap _ params => paramsFit params
  | .readLost _ params => paramsFit params
  | .readWatch _ params => paramsFit params
  | .readQueue _ params => paramsFit params
  | .ackAlert _ params => paramsFit params
  | .abort _ params => paramsFit params
  | .setWriteMode _ params => isItemOne params
  | .setDrainThreshold _ params => isItem params 2
  | .setEntryAgeTimer _ params => isItem params 3
  | .setCorrectionThreshold _ params => isItem params 4
  | .setPatrolEnable _ params => isItem params 5
  | .setPatrolInterval _ params => isItem params 6
  | .setLimit _ params => paramsFit params
  | .freezeLimit _ params => paramsFit params
  | .patrolStop _ params => isActionZero params
  | .patrolStart _ params => isAction params 1
  | .patrolRestart _ params => isAction params 2
  | .flush _ params => paramsFit params
  | .relocateBlock _ params => paramsFit params

end Sys2Proof
end

