-- ==== Sys2Proof/Decode.lean ====
section
/-! DEFINITION. What reads a command from bits: the opcode table gives no row any bits; the management link reads its rows
from frames (Tables 10-6 and 10-7). -/

namespace Sys2Proof

open Sys2Proof.Machine

/-- The command that a word spells by the table's bits: the table gives none, so no word spells a command. -/
def decodeTableWord (_nbits _w : Nat) : Option Instr := none

/-- The SET_CONFIG row of a frame's parameters (Table 10-4, log 19). -/
def configRow (seq : Byte) (params : List Byte) : Instr :=
  if isItem params 2 then .setDrainThreshold seq params
  else if isItem params 3 then .setEntryAgeTimer seq params
  else if isItem params 4 then .setCorrectionThreshold seq params
  else if isItem params 5 then .setPatrolEnable seq params
  else if isItem params 6 then .setPatrolInterval seq params
  else .setWriteMode seq params

/-- The PATROL_CONTROL row of a frame's parameters (R182, log 19). -/
def patrolRow (seq : Byte) (params : List Byte) : Instr :=
  if isAction params 1 then .patrolStart seq params
  else if isAction params 2 then .patrolRestart seq params
  else .patrolStop seq params

/-- The command of a frame that is not damaged (Table 10-7). -/
def frameRow (code seq : Byte) (params : List Byte) : Instr :=
  match mgmtCodeOf code.toNat with
  | none => .unknownCommand code seq params
  | some .getStatus => .getStatus seq params
  | some .getResult => .getResult seq params
  | some .getConfig => .getConfig seq params
  | some .readLog => .readLog seq params
  | some .readRemap => .readRemap seq params
  | some .readLost => .readLost seq params
  | some .readWatch => .readWatch seq params
  | some .readQueue => .readQueue seq params
  | some .ackAlert => .ackAlert seq params
  | some .abort => .abort seq params
  | some .setConfig => configRow seq params
  | some .setLimit => .setLimit seq params
  | some .freezeLimit => .freezeLimit seq params
  | some .patrolControl => patrolRow seq params
  | some .flush => .flush seq params
  | some .relocateBlock => .relocateBlock seq params

/-- The command that the bytes of a write transaction deliver (R169): none for a transaction that carries no byte. -/
def decodeFrame (frame : List Byte) : Option Instr :=
  if frame.isEmpty then none
  else if frameDamaged frame then some (.damagedFrame frame)
  else some (frameRow (frame.getD 0 0) (frame.getD 1 0) ((frame.drop 3).dropLast))

/-- The command that a write transaction of these bytes to an address delivers to the part: none when the part does not acknowledge
(R168, R169, R185). -/
def Machine.State.writeTransaction (s : State) (address : Nat) (frame : List Byte) : Option Instr :=
  if s.acknowledges address then decodeFrame frame else none

/-- The bytes of the frame that carries a command of the management link; none for a command that no frame carries. -/
def encodeFrame : Instr → Option (List Byte)
  | .damagedFrame frame => some frame
  | .unknownCommand code seq params => some (frameBytes code seq params)
  | .getStatus seq params => some (frameBytes (codeByte .getStatus) seq params)
  | .getResult seq params => some (frameBytes (codeByte .getResult) seq params)
  | .getConfig seq params => some (frameBytes (codeByte .getConfig) seq params)
  | .readLog seq params => some (frameBytes (codeByte .readLog) seq params)
  | .readRemap seq params => some (frameBytes (codeByte .readRemap) seq params)
  | .readLost seq params => some (frameBytes (codeByte .readLost) seq params)
  | .readWatch seq params => some (frameBytes (codeByte .readWatch) seq params)
  | .readQueue seq params => some (frameBytes (codeByte .readQueue) seq params)
  | .ackAlert seq params => some (frameBytes (codeByte .ackAlert) seq params)
  | .abort seq params => some (frameBytes (codeByte .abort) seq params)
  | .setWriteMode seq params => some (frameBytes (codeByte .setConfig) seq params)
  | .setDrainThreshold seq params => some (frameBytes (codeByte .setConfig) seq params)
  | .setEntryAgeTimer seq params => some (frameBytes (codeByte .setConfig) seq params)
  | .setCorrectionThreshold seq params => some (frameBytes (codeByte .setConfig) seq params)
  | .setPatrolEnable seq params => some (frameBytes (codeByte .setConfig) seq params)
  | .setPatrolInterval seq params => some (frameBytes (codeByte .setConfig) seq params)
  | .setLimit seq params => some (frameBytes (codeByte .setLimit) seq params)
  | .freezeLimit seq params => some (frameBytes (codeByte .freezeLimit) seq params)
  | .patrolStop seq params => some (frameBytes (codeByte .patrolControl) seq params)
  | .patrolStart seq params => some (frameBytes (codeByte .patrolControl) seq params)
  | .patrolRestart seq params => some (frameBytes (codeByte .patrolControl) seq params)
  | .flush seq params => some (frameBytes (codeByte .flush) seq params)
  | .relocateBlock seq params => some (frameBytes (codeByte .relocateBlock) seq params)
  | .powerOnReset => none
  | .powerOnResetRelease _ => none
  | .supplyFall => none
  | .supplyRestoration _ => none
  | .hostLinkResetAssert => none
  | .hostLinkResetRelease => none
  | .read _ _ => none
  | .write _ _ _ _ => none
  | .barrier _ => none
  | .responseTaken => none
  | .mediaAnswer _ _ _ => none
  | .mediaTimeout _ _ => none
  | .hostReadAnswer => none
  | .rmwReadAnswer => none
  | .drainProgramAnswer => none
  | .copyReadAnswer => none
  | .copyProgramAnswer => none
  | .commitProgramAnswer => none
  | .patrolReadAnswer => none
  | .loaderReadAnswer => none
  | .ageDeadlineExpiry _ => none
  | .patrolExpiry => none
  | .engineTakeHead => none
  | .prepareEnd _ => none
  | .relocationRelease => none
  | .relocRequest _ _ => none
  | .commitRequest _ => none
  | .watchReport _ _ => none
  | .lostBlockAddition _ _ => none
  | .healthReport _ => none
  | .eventAppend _ => none
  | .stagingFailedDiscard => none
  | .hostPortFailed => none
  | .watchTableFailed => none
  | .relocationFailed => none
  | .commitUnitStop => none
  | .patrolHalt => none
  | .loaderFailedNotice => none
  | .longCommandEnding _ _ _ => none

end Sys2Proof
end

