-- ==== Sys2Proof/Machine/ConfigCommands.lean ====
section
/-! DEFINITION. The configuration commands (section 10.4): the items of SET_CONFIG, SET_LIMIT, FREEZE_LIMIT and the actions of
PATROL_CONTROL. -/

namespace Sys2Proof.Machine

/-! ## What the owning block does with a running value (Table 10-4) -/

/-- The write mode applies to writes taken after the change; THROUGH makes every entry eligible (R63, R48). -/
def State.applyWriteMode (s : State) (v : Nat) : State :=
  (s.setStaging { s.staging with mode := modeOf v }).arbitrate

/-- Eligibility is re-evaluated at once (R63). -/
def State.applyDrainThreshold (s : State) (v : Nat) : State :=
  (s.setStaging { s.staging with threshold := v }).arbitrate

/-- The timer applies to entries allocated after the change (R63). -/
def State.applyAgeTimer (s : State) (v : Nat) : State := s.setStaging { s.staging with ageTimer := v }

/-- Enable set or cleared (R153). -/
def State.applyPatrolEnable (s : State) (v : Nat) : State := s.changePatrol { s.patrol with enable := decide (v = 1) }

/-- The interval applies at the next setting of a deadline (R153). -/
def State.applyPatrolInterval (s : State) (v : Nat) : State := s.changePatrol { s.patrol with interval := v }

/-! ## The commands -/

/-- SET_WRITE_MODE: SET_CONFIG, item 1 (R179, R63). -/
def execSetWriteMode (seq : Byte) (params : List Byte) (s : State) : Host.Outcome State Fault Refusal :=
  .next (s.takeFrame .setConfig seq params fun s =>
    s.setConfig seq params 1 0 1 (fun c v => { c with writeMode := v }) State.applyWriteMode)

/-- SET_DRAIN_THRESHOLD: SET_CONFIG, item 2 (R179, R63). -/
def execSetDrainThreshold (seq : Byte) (params : List Byte) (s : State) : Host.Outcome State Fault Refusal :=
  .next (s.takeFrame .setConfig seq params fun s =>
    s.setConfig seq params 2 1 63 (fun c v => { c with drainThreshold := v }) State.applyDrainThreshold)

/-- SET_ENTRY_AGE_TIMER: SET_CONFIG, item 3 (R179, R63). -/
def execSetEntryAgeTimer (seq : Byte) (params : List Byte) (s : State) : Host.Outcome State Fault Refusal :=
  .next (s.takeFrame .setConfig seq params fun s =>
    s.setConfig seq params 3 1 500 (fun c v => { c with ageTimer := v }) State.applyAgeTimer)

/-- SET_CORRECTION_THRESHOLD: SET_CONFIG, item 4 (R179, R94). -/
def execSetCorrectionThreshold (seq : Byte) (params : List Byte) (s : State) : Host.Outcome State Fault Refusal :=
  .next (s.takeFrame .setConfig seq params fun s =>
    s.setConfig seq params 4 1 255 (fun c v => { c with corrThreshold := v }) State.setThreshold)

/-- SET_PATROL_ENABLE: SET_CONFIG, item 5 (R179, R153). -/
def execSetPatrolEnable (seq : Byte) (params : List Byte) (s : State) : Host.Outcome State Fault Refusal :=
  .next (s.takeFrame .setConfig seq params fun s =>
    s.setConfig seq params 5 0 1 (fun c v => { c with patrolEnable := v }) State.applyPatrolEnable)

/-- SET_PATROL_INTERVAL: SET_CONFIG, item 6 (R179, R153). -/
def execSetPatrolInterval (seq : Byte) (params : List Byte) (s : State) : Host.Outcome State Fault Refusal :=
  .next (s.takeFrame .setConfig seq params fun s =>
    s.setConfig seq params 6 10 10000 (fun c v => { c with patrolInterval := v }) State.applyPatrolInterval)

/-- SET_LIMIT (R180, R37). -/
def execSetLimit (seq : Byte) (params : List Byte) (s : State) : Host.Outcome State Fault Refusal :=
  .next (s.takeFrame .setLimit seq params fun s => s.setLimit seq params)

/-- FREEZE_LIMIT (R181, R37). -/
def execFreezeLimit (seq : Byte) (params : List Byte) (s : State) : Host.Outcome State Fault Refusal :=
  .next (s.takeFrame .freezeLimit seq params fun s => (s.setXlat { s.xlat with frozen := true }).inform [])

/-- PATROL_STOP: PATROL_CONTROL, action 0 (R182, R152). -/
def execPatrolStop (seq : Byte) (params : List Byte) (s : State) : Host.Outcome State Fault Refusal :=
  .next (s.takeFrame .patrolControl seq params fun s => s.controlPatrol params 0 { s.patrol with control := .hold })

/-- PATROL_START: PATROL_CONTROL, action 1 (R182, R152). -/
def execPatrolStart (seq : Byte) (params : List Byte) (s : State) : Host.Outcome State Fault Refusal :=
  .next (s.takeFrame .patrolControl seq params fun s => s.controlPatrol params 1 { s.patrol with control := .run })

/-- PATROL_RESTART: PATROL_CONTROL, action 2 (R182, R152). -/
def execPatrolRestart (seq : Byte) (params : List Byte) (s : State) : Host.Outcome State Fault Refusal :=
  .next (s.takeFrame .patrolControl seq params fun s =>
    s.controlPatrol params 2 { s.patrol with block := 0, line := 0, control := .run })

end Sys2Proof.Machine
end

