-- ==== Sys2Proof/Machine/HandoverCommands.lean ====
section
/-! DEFINITION. The commands in which one block takes what another hands it (log 1). -/

namespace Sys2Proof.Machine

/-- A hand-over is taken: it leaves the list, and its block acts, unless the power-on reset holds (log 3, log 4). -/
def State.handOver (s : State) (c : Instr) (take : State → State) : State := (s.unpost c).whenUp take

/-- ENGINE_TAKE_HEAD (R109, R110). -/
def execEngineTakeHead (s : State) : Host.Outcome State Fault Refusal := .next (s.handOver .engineTakeHead State.takeHead)

/-- PREPARE_END (R111). -/
def execPrepareEnd (result : ProgramResult) (s : State) : Host.Outcome State Fault Refusal :=
  .next (s.handOver (.prepareEnd result) fun s => s.endPrepare result)

/-- RELOCATION_RELEASE (R116, R55). -/
def execRelocationRelease (s : State) : Host.Outcome State Fault Refusal :=
  .next (s.handOver .relocationRelease State.releaseDone)

/-- RELOC_REQUEST (R102 to R106). -/
def execRelocRequest (block : Nat) (cause : RelocCause) (s : State) : Host.Outcome State Fault Refusal :=
  .next (s.handOver (.relocRequest block cause) fun s => (s.takeRelocRequest block cause).settle)

/-- COMMIT_REQUEST (R131). -/
def execCommitRequest (party : CommitParty) (s : State) : Host.Outcome State Fault Refusal :=
  .next (s.handOver (.commitRequest party) fun s => s.takeCommitRequest party)

/-- WATCH_REPORT (R90 to R92); a CORRECTED outcome has 1 … 4 bits (R89). -/
def execWatchReport (block bits : Nat) (s : State) : Host.Outcome State Fault Refusal :=
  .next (s.handOver (.watchReport block bits) fun s => if 1 ≤ bits ∧ bits ≤ 4 then s.takeReport block bits else s)

/-- The requesters of R34 can ask for the block's addition by this command: it is a block of the part, and neither queued nor being
migrated (R34, R100, R102; log 37). -/
def State.addable (s : State) (block : Nat) : Bool :=
  decide (block < s.xlat.nb) && !s.reloc.isQueued block && !s.reloc.isMigrating block

/-- LOST_BLOCK_ADDITION (R34, R35). -/
def execLostBlockAddition (block : Nat) (requester : LostRequester) (s : State) : Host.Outcome State Fault Refusal :=
  .next (s.handOver (.lostBlockAddition block requester) fun s =>
    if s.addable block then (s.addLost block requester).settle else s)

/-- HEALTH_REPORT (R156, R157). -/
def execHealthReport (input : HealthInput) (s : State) : Host.Outcome State Fault Refusal :=
  .next (s.handOver (.healthReport input) fun s => s.reportHealth input)

/-- The fields of a record are in the ranges of R162. -/
def eventInRange (b : EventBody) : Bool :=
  b.block.all (fun n => decide (n < Config.dataBlocks)) && b.spare.all (fun n => decide (n < Config.spareCount)) &&
    b.line.all (fun n => decide (n < 64)) && decide (b.value < 4294967296)

/-- EVENT_APPEND (R163). -/
def execEventAppend (body : EventBody) (s : State) : Host.Outcome State Fault Refusal :=
  .next (s.handOver (.eventAppend body) fun s => if eventInRange body then s.append body else s)

/-- LONG_COMMAND_ENDING (R173). -/
def execLongCommandEnding (code : LongCode) (result : LongResult) (spare : Nat) (s : State) :
    Host.Outcome State Fault Refusal :=
  .next (s.handOver (.longCommandEnding code result spare) fun s => s.endLong code result spare)

end Sys2Proof.Machine
end

