-- ==== Sys2Proof/Machine/HostCommands.lean ====
section
/-! DEFINITION. The commands of the host memory controller (Chapter 4). -/

namespace Sys2Proof.Machine

/-- READ (R66, R79): the request reaches the channel, and is taken when the conditions of Table 4-2 allow. -/
def execRead (tag : Fin 32) (addr : Nat) (s : State) : Host.Outcome State Fault Refusal :=
  .next (s.present (.read tag.val addr))

/-- WRITE (R66, R73). -/
def execWrite (tag : Fin 32) (addr : Nat) (data : Line) (mask : Mask) (s : State) : Host.Outcome State Fault Refusal :=
  .next (s.present (.write tag.val addr data mask))

/-- BARRIER (R66, R75). -/
def execBarrier (tag : Fin 8) (s : State) : Host.Outcome State Fault Refusal := .next (s.present (.barrier tag.val))

/-- RESPONSE_TAKEN (R68): the head of the response queue leaves it, and a held request may be taken. -/
def execResponseTaken (s : State) : Host.Outcome State Fault Refusal :=
  .next (match s.host.responses with
    | [] => s
    | _ :: rest => (s.setHost { s.host with responses := rest }).settle)

end Sys2Proof.Machine
end

