-- ==== Sys2Proof/Machine/InspectCommands.lean ====
section
/-! DEFINITION. The frames that change no other block: damaged and unknown frames, the inspection commands, ACK_ALERT
(sections 10.1 and 10.3). -/

namespace Sys2Proof.Machine

/-- DAMAGED_FRAME (R169): the readable response becomes BADCHECK with the frame's second byte; a frame that is not damaged,
or has no byte, is not this command (log 3). -/
def execDamagedFrame (frame : List Byte) (s : State) : Host.Outcome State Fault Refusal :=
  .next (s.whenUp fun s =>
    if frameDamaged frame = true ∧ frame ≠ [] then s.setLink { s.link with readable := .badCheck (frame.getD 1 0) }
    else s)

/-- UNKNOWN_COMMAND (R170, R171); a code of Table 10-7 is not this command (log 3). -/
def execUnknownCommand (code seq : Byte) (_params : List Byte) (s : State) : Host.Outcome State Fault Refusal :=
  .next (match mgmtCodeOf code.toNat with
    | some _ => s
    | none => s.receive seq fun s => s.refuse .badCmd)

/-- GET_STATUS (R175). -/
def execGetStatus (seq : Byte) (params : List Byte) (s : State) : Host.Outcome State Fault Refusal :=
  .next (s.takeFrame .getStatus seq params fun s => s.inform s.statusPayload)

/-- GET_RESULT (R172). -/
def execGetResult (seq : Byte) (params : List Byte) (s : State) : Host.Outcome State Fault Refusal :=
  .next (s.takeFrame .getResult seq params State.reportResult)

/-- GET_CONFIG (R176). -/
def execGetConfig (seq : Byte) (params : List Byte) (s : State) : Host.Outcome State Fault Refusal :=
  .next (s.takeFrame .getConfig seq params fun s =>
    s.inform (settingsBytes s.runningSettings ++ settingsBytes s.commit.config))

/-- READ_LOG (R164). -/
def execReadLog (seq : Byte) (params : List Byte) (s : State) : Host.Outcome State Fault Refusal :=
  .next (s.takeFrame .readLog seq params fun s => s.inform ((logPage s.log (paramNat params 0 4)).flatMap eventBytes))

/-- READ_REMAP (R177). -/
def execReadRemap (seq : Byte) (params : List Byte) (s : State) : Host.Outcome State Fault Refusal :=
  .next (s.takeFrame .readRemap seq params fun s => s.inform (remapPage s.xlat (paramNat params 0 2)))

/-- READ_LOST (R177). -/
def execReadLost (seq : Byte) (params : List Byte) (s : State) : Host.Outcome State Fault Refusal :=
  .next (s.takeFrame .readLost seq params fun s => s.inform (lostPage s.xlat (paramNat params 0 1)))

/-- READ_WATCH (R177, R99). -/
def execReadWatch (seq : Byte) (params : List Byte) (s : State) : Host.Outcome State Fault Refusal :=
  .next (s.takeFrame .readWatch seq params fun s => s.inform (watchPage s.watch (paramNat params 0 1)))

/-- READ_QUEUE (R177). -/
def execReadQueue (seq : Byte) (params : List Byte) (s : State) : Host.Outcome State Fault Refusal :=
  .next (s.takeFrame .readQueue seq params fun s => s.inform (queuePage s.reloc))

/-- ACK_ALERT (R178, R166). -/
def execAckAlert (seq : Byte) (params : List Byte) (s : State) : Host.Outcome State Fault Refusal :=
  .next (s.takeFrame .ackAlert seq params fun s => (s.setLog { s.log with alert := false }).inform [])

end Sys2Proof.Machine
end

