-- ==== Sys2Proof/Machine/LongCommands.lean ====
section
/-! DEFINITION. FLUSH, RELOCATE_BLOCK and ABORT (sections 10.2 and 10.5). -/

namespace Sys2Proof.Machine

/-- FLUSH (R183). -/
def execFlush (seq : Byte) (params : List Byte) (s : State) : Host.Outcome State Fault Refusal :=
  .next (s.takeFrame .flush seq params fun s => s.startFlush seq)

/-- RELOCATE_BLOCK (R184). -/
def execRelocateBlock (seq : Byte) (params : List Byte) (s : State) : Host.Outcome State Fault Refusal :=
  .next (s.takeFrame .relocateBlock seq params fun s => s.startRelocate seq params)

/-- ABORT (R174). -/
def execAbort (seq : Byte) (params : List Byte) (s : State) : Host.Outcome State Fault Refusal :=
  .next (s.takeFrame .abort seq params State.abortLong)

end Sys2Proof.Machine
end

