-- ==== Sys2Proof/Machine/MediaCommands.lean ====
section
/-! DEFINITION. The answers of the array, the media timeout, and the deliveries to the requesters (Chapter 1). -/

namespace Sys2Proof.Machine

/-! ## The end of an operation at the port (R8, R9, R14) -/

/-- The arbiter's choice at the port's entry into IDLE, when it comes before the delivery; otherwise it comes with the
delivery (R9, log 9). -/
def State.chooseBefore (s : State) (order : AnswerOrder) : State :=
  match order with
  | .choiceFirst => s.arbitrate
  | .deliveryFirst => s

/-- A matching answer ends the operation (R8). One of the other kind, which only an answer held back over 65,536 issues can be (R15),
ends it too: the outcome it gives is free, and a program's line is not vouched for (log 18). -/
def State.answerOp (s : State) (r : OpRecord) (answer : ArrayAnswer) (order : AnswerOrder) : State :=
  match answer, r.kind with
  | .read outcome source, .read =>
    let c := s.answerContent r source
    (((s.setArray (endArrayOp s.array .done)).useOrder c.2.2).endOp r (deliveredRead outcome c.1 c.2.1)).chooseBefore
      order
  | .program result, .program =>
    ((s.setArray (endArrayOp s.array result)).endOp r (.program result)).chooseBefore order
  | .read _ _, .program =>
    (((s.setArray (endArrayOp s.array .fail)).useOrder 1).endOp r (.program (Config.freeResult s.freeCount))).chooseBefore
      order
  | .program _, .read =>
    let c := Config.freeRead s.freeCount
    (((s.setArray (endArrayOp s.array .done)).useOrder 1).endOp r (deliveredRead c.1 c.2.1 c.2.2)).chooseBefore order

/-- MEDIA_ANSWER (R8): an answer whose identifier does not match, or that finds the port IDLE, is discarded. -/
def execMediaAnswer (id : BitVec 16) (answer : ArrayAnswer) (order : AnswerOrder) (s : State) :
    Host.Outcome State Fault Refusal :=
  .next (match s.port.record with
    | some r => if r.id = id then s.answerOp r answer order else s
    | none => s)

/-- The MEDIA_TIMEOUT record of an operation (R14). -/
def timeoutEvent (r : OpRecord) : EventBody :=
  { kind := .mediaTimeout, block := r.block, spare := r.spare, line := some r.line, value := r.pblock }

/-- The array after a timeout: the line of a timed-out program is not vouched for (R5, log 10). -/
def timedOutArray (a : ArrayState) (kind : OpKind) : ArrayState :=
  match kind with
  | .read => a
  | .program => endArrayOp a .fail

/-- The deadline of the operation passes (R14). -/
def State.timeoutOp (s : State) (r : OpRecord) (order : AnswerOrder) (event : TimeoutOrder) : State :=
  let s0 := s.setArray (timedOutArray s.array r.kind)
  match event with
  | .eventFirst => ((s0.append (timeoutEvent r)).endOp r (deliveredTimeout r.kind)).chooseBefore order
  | .deliveryFirst =>
    ((s0.endOp r (deliveredTimeout r.kind)).post (.eventAppend (timeoutEvent r))).chooseBefore order

/-- MEDIA_TIMEOUT (R14); no deadline runs while the port is IDLE. -/
def execMediaTimeout (order : AnswerOrder) (event : TimeoutOrder) (s : State) : Host.Outcome State Fault Refusal :=
  .next (match s.port.record with
    | some r => s.timeoutOp r order event
    | none => s)

/-! ## Deliveries -/

/-- The requester takes the answer delivered to it, and the arbiter then chooses if the port is IDLE (R9, R11). Without a
delivery nothing happens (log 3). -/
def State.deliver (s : State) (c : Instr) (take : State → Delivered → State) : State :=
  match s.deliveredFor c with
  | some d => (take (s.takeDelivery d c) d.answer).arbitrate
  | none => s

/-- HOST_READ_ANSWER (R81, R85). -/
def execHostReadAnswer (s : State) : Host.Outcome State Fault Refusal :=
  .next (s.deliver .hostReadAnswer State.hostReadAnswered)

/-- RMW_READ_ANSWER (R51). -/
def execRmwReadAnswer (s : State) : Host.Outcome State Fault Refusal :=
  .next (s.deliver .rmwReadAnswer State.rmwAnswered)

/-- DRAIN_PROGRAM_ANSWER (R52, R53). -/
def execDrainProgramAnswer (s : State) : Host.Outcome State Fault Refusal :=
  .next (s.deliver .drainProgramAnswer fun s d => s.drainAnswered d.result)

/-- COPY_READ_ANSWER (R112). -/
def execCopyReadAnswer (s : State) : Host.Outcome State Fault Refusal :=
  .next (s.deliver .copyReadAnswer State.copyReadDone)

/-- COPY_PROGRAM_ANSWER (R113, R114). -/
def execCopyProgramAnswer (s : State) : Host.Outcome State Fault Refusal :=
  .next (s.deliver .copyProgramAnswer fun s d => s.copyProgramDone d.result)

/-- COMMIT_PROGRAM_ANSWER (R134). -/
def execCommitProgramAnswer (s : State) : Host.Outcome State Fault Refusal :=
  .next (s.deliver .commitProgramAnswer fun s d => s.commitAnswered d.result)

/-- PATROL_READ_ANSWER (R150). -/
def execPatrolReadAnswer (s : State) : Host.Outcome State Fault Refusal :=
  .next (s.deliver .patrolReadAnswer State.patrolAnswered)

/-- LOADER_READ_ANSWER (R140, R141). -/
def execLoaderReadAnswer (s : State) : Host.Outcome State Fault Refusal :=
  .next (s.deliver .loaderReadAnswer State.loaderAnswered)

end Sys2Proof.Machine
end

