-- ==== Sys2Proof/Machine/NoticeCommands.lean ====
section
/-! DEFINITION. The FAILED notices, each taken by its block as a happening of its own (R158). -/

namespace Sys2Proof.Machine

/-- STAGING_FAILED_DISCARD (R62). -/
def execStagingFailedDiscard (s : State) : Host.Outcome State Fault Refusal :=
  .next (s.handOver .stagingFailedDiscard fun s => s.discardAll.settle)

/-- HOST_PORT_FAILED (R86). -/
def execHostPortFailed (s : State) : Host.Outcome State Fault Refusal :=
  .next (s.handOver .hostPortFailed fun s => s.failHostPort.settle)

/-- WATCH_TABLE_FAILED (R98): the entries are kept, and every report from then on is dropped. -/
def execWatchTableFailed (s : State) : Host.Outcome State Fault Refusal :=
  .next (s.handOver .watchTableFailed fun s => s.setWatch { s.watch with failed := true })

/-- RELOCATION_FAILED (R123). -/
def execRelocationFailed (s : State) : Host.Outcome State Fault Refusal :=
  .next (s.handOver .relocationFailed State.failReloc)

/-- COMMIT_UNIT_STOP (R138). -/
def execCommitUnitStop (s : State) : Host.Outcome State Fault Refusal := .next (s.handOver .commitUnitStop State.stopCommit)

/-- PATROL_HALT (R154). -/
def execPatrolHalt (s : State) : Host.Outcome State Fault Refusal :=
  .next (s.handOver .patrolHalt fun s => s.setPatrol (haltPatrol s.patrol))

/-- LOADER_FAILED_NOTICE (R143, R158): in LOADING_FIELD the loader enters FAILED; in any other state nothing happens. -/
def execLoaderFailedNotice (s : State) : Host.Outcome State Fault Refusal :=
  .next (s.handOver .loaderFailedNotice fun s => if s.loader.state = .loadingField then s.enterResult true else s)

end Sys2Proof.Machine
end

