-- ==== Sys2Proof/Machine/ResetCommands.lean ====
section
/-! DEFINITION. The commands of the board: power-on reset, core supply, host link reset. -/

namespace Sys2Proof.Machine

/-- The internal reset is released once the input is released and the supply is at its level (R139, R186). -/
def State.releaseReset (s : State) (straps : Fin 4) : State := s.whenUp fun s => s.startUp straps

/-- POWER_ON_RESET (R16): the input is asserted, and every volatile state of every block is lost. -/
def execPowerOnReset (s : State) : Host.Outcome State Fault Refusal :=
  .next (s.setPins { s.pins with porInput := true }).powerCycle

/-- POWER_ON_RESET_RELEASE (R139, R185); the release of an input that is not asserted is no event (log 24). -/
def execPowerOnResetRelease (straps : Fin 4) (s : State) : Host.Outcome State Fault Refusal :=
  .next (if s.pins.porInput then (s.setPins { s.pins with porInput := false }).releaseReset straps else s)

/-- SUPPLY_FALL (R186): a power-on reset, taken at the moment of the fall. -/
def execSupplyFall (s : State) : Host.Outcome State Fault Refusal :=
  .next (s.setPins { s.pins with supplyLow := true }).powerCycle

/-- SUPPLY_RESTORATION (R186); the return of a supply that did not fall is no event (log 24). -/
def execSupplyRestoration (straps : Fin 4) (s : State) : Host.Outcome State Fault Refusal :=
  .next (if s.pins.supplyLow then (s.setPins { s.pins with supplyLow := false }).releaseReset straps else s)

/-- HOST_LINK_RESET_ASSERT (R84); in STARTING only the input changes (R83). -/
def execHostLinkResetAssert (s : State) : Host.Outcome State Fault Refusal :=
  let s1 := s.setPins { s.pins with linkReset := true }
  .next (if s.host.ready = .starting then s1 else s1.linkResetPort.arbitrate)

/-- The ready state at the release of the host link reset (R85). -/
def releasedReady (h : HostPort) : ReadyState := if h.abandoned.isSome then .recovering else .opened

/-- HOST_LINK_RESET_RELEASE (R85); in STARTING only the input changes (R83). -/
def execHostLinkResetRelease (s : State) : Host.Outcome State Fault Refusal :=
  let s1 := s.setPins { s.pins with linkReset := false }
  .next (if s.host.ready = .inReset then (s1.setHost { s1.host with ready := releasedReady s1.host }).settle else s1)

end Sys2Proof.Machine
end

