-- ==== Sys2Proof/Machine/TimeCommands.lean ====
section
/-! DEFINITION. The commands of time: the age deadline of a staging entry and the patrol timer. -/

namespace Sys2Proof.Machine

/-- The buffer with the age deadline of the entry of this acceptance order passed (R48). -/
def passAge (st : Staging) (order : Nat) : Staging :=
  { st with entries := st.entries.map fun e => if e.order = order then { e with agePassed := true } else e }

/-- AGE_DEADLINE_EXPIRY (R48): the entry becomes eligible for drain; without such an entry nothing happens (log 3). -/
def execAgeDeadlineExpiry (order : Nat) (s : State) : Host.Outcome State Fault Refusal :=
  .next (if s.staging.entries.any (fun e => decide (e.order = order)) then
      (s.setStaging (passAge s.staging order)).arbitrate
    else s)

/-- PATROL_EXPIRY (R148). -/
def execPatrolExpiry (s : State) : Host.Outcome State Fault Refusal := .next s.patrolExpired

end Sys2Proof.Machine
end

