-- ==== Sys2Proof/Machine/Dispatch.lean ====
section
/-! DEFINITION. One arm per command, each the direct call of its meaning. -/

namespace Sys2Proof.Machine

def exec (i : Instr) (s : State) : Host.Outcome State Fault Refusal :=
  match i with
  | .powerOnReset => Sys2Proof.Machine.execPowerOnReset s
  | .powerOnResetRelease straps => Sys2Proof.Machine.execPowerOnResetRelease straps s
  | .supplyFall => Sys2Proof.Machine.execSupplyFall s
  | .supplyRestoration straps => Sys2Proof.Machine.execSupplyRestoration straps s
  | .hostLinkResetAssert => Sys2Proof.Machine.execHostLinkResetAssert s
  | .hostLinkResetRelease => Sys2Proof.Machine.execHostLinkResetRelease s
  | .read tag addr => Sys2Proof.Machine.execRead tag addr s
  | .write tag addr data mask => Sys2Proof.Machine.execWrite tag addr data mask s
  | .barrier tag => Sys2Proof.Machine.execBarrier tag s
  | .responseTaken => Sys2Proof.Machine.execResponseTaken s
  | .mediaAnswer id answer order => Sys2Proof.Machine.execMediaAnswer id answer order s
  | .mediaTimeout order event => Sys2Proof.Machine.execMediaTimeout order event s
  | .hostReadAnswer => Sys2Proof.Machine.execHostReadAnswer s
  | .rmwReadAnswer => Sys2Proof.Machine.execRmwReadAnswer s
  | .drainProgramAnswer => Sys2Proof.Machine.execDrainProgramAnswer s
  | .copyReadAnswer => Sys2Proof.Machine.execCopyReadAnswer s
  | .copyProgramAnswer => Sys2Proof.Machine.execCopyProgramAnswer s
  | .commitProgramAnswer => Sys2Proof.Machine.execCommitProgramAnswer s
  | .patrolReadAnswer => Sys2Proof.Machine.execPatrolReadAnswer s
  | .loaderReadAnswer => Sys2Proof.Machine.execLoaderReadAnswer s
  | .ageDeadlineExpiry order => Sys2Proof.Machine.execAgeDeadlineExpiry order s
  | .patrolExpiry => Sys2Proof.Machine.execPatrolExpiry s
  | .engineTakeHead => Sys2Proof.Machine.execEngineTakeHead s
  | .prepareEnd result => Sys2Proof.Machine.execPrepareEnd result s
  | .relocationRelease => Sys2Proof.Machine.execRelocationRelease s
  | .relocRequest block cause => Sys2Proof.Machine.execRelocRequest block cause s
  | .commitRequest party => Sys2Proof.Machine.execCommitRequest party s
  | .watchReport block bits => Sys2Proof.Machine.execWatchReport block bits s
  | .lostBlockAddition block requester => Sys2Proof.Machine.execLostBlockAddition block requester s
  | .healthReport input => Sys2Proof.Machine.execHealthReport input s
  | .eventAppend body => Sys2Proof.Machine.execEventAppend body s
  | .stagingFailedDiscard => Sys2Proof.Machine.execStagingFailedDiscard s
  | .hostPortFailed => Sys2Proof.Machine.execHostPortFailed s
  | .watchTableFailed => Sys2Proof.Machine.execWatchTableFailed s
  | .relocationFailed => Sys2Proof.Machine.execRelocationFailed s
  | .commitUnitStop => Sys2Proof.Machine.execCommitUnitStop s
  | .patrolHalt => Sys2Proof.Machine.execPatrolHalt s
  | .loaderFailedNotice => Sys2Proof.Machine.execLoaderFailedNotice s
  | .longCommandEnding code result spare => Sys2Proof.Machine.execLongCommandEnding code result spare s
  | .damagedFrame frame => Sys2Proof.Machine.execDamagedFrame frame s
  | .unknownCommand code seq params => Sys2Proof.Machine.execUnknownCommand code seq params s
  | .getStatus seq params => Sys2Proof.Machine.execGetStatus seq params s
  | .getResult seq params => Sys2Proof.Machine.execGetResult seq params s
  | .getConfig seq params => Sys2Proof.Machine.execGetConfig seq params s
  | .readLog seq params => Sys2Proof.Machine.execReadLog seq params s
  | .readRemap seq params => Sys2Proof.Machine.execReadRemap seq params s
  | .readLost seq params => Sys2Proof.Machine.execReadLost seq params s
  | .readWatch seq params => Sys2Proof.Machine.execReadWatch seq params s
  | .readQueue seq params => Sys2Proof.Machine.execReadQueue seq params s
  | .ackAlert seq params => Sys2Proof.Machine.execAckAlert seq params s
  | .abort seq params => Sys2Proof.Machine.execAbort seq params s
  | .setWriteMode seq params => Sys2Proof.Machine.execSetWriteMode seq params s
  | .setDrainThreshold seq params => Sys2Proof.Machine.execSetDrainThreshold seq params s
  | .setEntryAgeTimer seq params => Sys2Proof.Machine.execSetEntryAgeTimer seq params s
  | .setCorrectionThreshold seq params => Sys2Proof.Machine.execSetCorrectionThreshold seq params s
  | .setPatrolEnable seq params => Sys2Proof.Machine.execSetPatrolEnable seq params s
  | .setPatrolInterval seq params => Sys2Proof.Machine.execSetPatrolInterval seq params s
  | .setLimit seq params => Sys2Proof.Machine.execSetLimit seq params s
  | .freezeLimit seq params => Sys2Proof.Machine.execFreezeLimit seq params s
  | .patrolStop seq params => Sys2Proof.Machine.execPatrolStop seq params s
  | .patrolStart seq params => Sys2Proof.Machine.execPatrolStart seq params s
  | .patrolRestart seq params => Sys2Proof.Machine.execPatrolRestart seq params s
  | .flush seq params => Sys2Proof.Machine.execFlush seq params s
  | .relocateBlock seq params => Sys2Proof.Machine.execRelocateBlock seq params s

end Sys2Proof.Machine
end

