-- ==== Sys2Proof/Machine/Step.lean ====
section
/-! DEFINITION. One step: the command at the front of the queue, or, on an empty queue, the oldest hand-over not yet taken
(log 2). -/

namespace Sys2Proof.Machine

/-- The state that a command runs on: the queue's rest. -/
def State.withRest (s : State) (rest : List Instr) : State := s.setPending rest

/-- On an empty queue the part takes the oldest hand-over, and without one it idles (log 2). -/
def State.idle (s : State) : Host.Outcome State Fault Refusal :=
  match s.posted with
  | c :: _ => exec c s
  | [] => .next s

/-- One step. -/
def step (s : State) : Host.Outcome State Fault Refusal :=
  match s.pending with
  | c :: rest => exec c (s.withRest rest)
  | [] => s.idle

/-- The state with the command that a word of the table spells at the front of the queue. -/
def State.withFetchWord (s : State) (nbits w : Nat) : State :=
  match decodeTableWord nbits w with
  | some c => s.setPending (c :: s.pending)
  | none => s

end Sys2Proof.Machine
end

