-- ==== Sys2Proof/Laws/Frames.lean ====
section
/-! SUPPORT. A frame built of a code, a sequence byte and at most 32 parameters is read back as they are. -/

namespace Sys2Proof

open Sys2Proof.Machine

section
variable (code seq : Byte) (params : List Byte)

@[simp] theorem frameBytes_code : (frameBytes code seq params).getD 0 0 = code := rfl

@[simp] theorem frameBytes_seq : (frameBytes code seq params).getD 1 0 = seq := rfl

@[simp] theorem frameBytes_length : (frameBytes code seq params).length = params.length + 4 := by
  simp [frameBytes]

theorem frameBytes_params : ((frameBytes code seq params).drop 3).dropLast = params := by
  simp [frameBytes]

theorem frameBytes_not_damaged (h : params.length ≤ 32) : frameDamaged (frameBytes code seq params) = false := by
  have hn : (BitVec.ofNat 8 params.length).toNat = params.length := by
    rw [BitVec.toNat_ofNat]; omega
  have h2 : (frameBytes code seq params).getD 2 0 = BitVec.ofNat 8 params.length := rfl
  have hl : (frameBytes code seq params).getLast? =
      some (crc8 (frameBytes code seq params).dropLast) := by
    show (_ ++ [_]).getLast? = some (crc8 (_ ++ [_]).dropLast)
    rw [List.dropLast_concat, List.getLast?_concat]
  unfold frameDamaged
  simp only [h2, hn, frameBytes_length, hl]
  simp
  omega

/-- A frame that is not damaged is read by its code, sequence byte and parameters (Table 10-6). -/
theorem decodeFrame_frameBytes (h : params.length ≤ 32) :
    decodeFrame (frameBytes code seq params) = some (frameRow code seq params) := by
  have he : (frameBytes code seq params).isEmpty = false := rfl
  simp only [decodeFrame, he, frameBytes_not_damaged code seq params h, frameBytes_params, frameBytes_code,
    frameBytes_seq, Bool.false_eq_true, if_false]

end

/-- The number that names a command of Table 10-7 is its code. -/
@[simp] theorem mgmtCodeOf_codeByte (c : MgmtCode) : mgmtCodeOf (codeByte c).toNat = some c := by
  cases c <;> rfl

/-- The frame of a command of Table 10-7 is read as that command's row. -/
theorem decodeFrame_code (c : MgmtCode) (seq : Byte) (params : List Byte) (h : paramsFit params = true) :
    decodeFrame (frameBytes (codeByte c) seq params) = some (frameRow (codeByte c) seq params) :=
  decodeFrame_frameBytes _ _ _ (by simpa [paramsFit] using h)

theorem isItem_length {params : List Byte} {n : Nat} (h : isItem params n = true) : paramsFit params = true := by
  simp [isItem, paramsFit] at *; omega

theorem isAction_length {params : List Byte} {n : Nat} (h : isAction params n = true) : paramsFit params = true := by
  simp [isAction, paramsFit] at *; omega

/-- A SET_CONFIG frame has one item. -/
theorem isItem_unique {params : List Byte} {n m : Nat} (h : isItem params n = true) (hm : n ≠ m) :
    isItem params m = false := by
  simp [isItem] at *; omega

/-- A PATROL_CONTROL frame has one action. -/
theorem isAction_unique {params : List Byte} {n m : Nat} (h : isAction params n = true) (hm : n ≠ m) :
    isAction params m = false := by
  simp [isAction] at *; omega

end Sys2Proof
end

