-- ==== Sys2Proof/Laws/PerInstr.lean ====
section
/-! SUPPORT. Laws stated once per command. -/

namespace Sys2Proof.Laws.FrameRoundTrip

open Sys2Proof.Machine

/-- A command that a frame carries, with operands that fit, is read back from its frame (Tables 10-6 and 10-7). -/
def Statement (i : Instr) : Prop :=
  i.wellFormed = true → ∀ frame, encodeFrame i = some frame → decodeFrame frame = some i

theorem powerOnReset : Statement (.powerOnReset) := fun _ _ he => nomatch he

theorem powerOnResetRelease (straps : Fin 4) : Statement (.powerOnResetRelease straps) := fun _ _ he => nomatch he

theorem supplyFall : Statement (.supplyFall) := fun _ _ he => nomatch he

theorem supplyRestoration (straps : Fin 4) : Statement (.supplyRestoration straps) := fun _ _ he => nomatch he

theorem hostLinkResetAssert : Statement (.hostLinkResetAssert) := fun _ _ he => nomatch he

theorem hostLinkResetRelease : Statement (.hostLinkResetRelease) := fun _ _ he => nomatch he

theorem read (tag : Fin 32) (addr : Nat) : Statement (.read tag addr) := fun _ _ he => nomatch he

theorem write (tag : Fin 32) (addr : Nat) (data : Line) (mask : Mask) : Statement (.write tag addr data mask) := fun _ _ he => nomatch he

theorem barrier (tag : Fin 8) : Statement (.barrier tag) := fun _ _ he => nomatch he

theorem responseTaken : Statement (.responseTaken) := fun _ _ he => nomatch he

theorem mediaAnswer (id : BitVec 16) (answer : ArrayAnswer) (order : AnswerOrder) : Statement (.mediaAnswer id answer order) := fun _ _ he => nomatch he

theorem mediaTimeout (order : AnswerOrder) (event : TimeoutOrder) : Statement (.mediaTimeout order event) := fun _ _ he => nomatch he

theorem hostReadAnswer : Statement (.hostReadAnswer) := fun _ _ he => nomatch he

theorem rmwReadAnswer : Statement (.rmwReadAnswer) := fun _ _ he => nomatch he

theorem drainProgramAnswer : Statement (.drainProgramAnswer) := fun _ _ he => nomatch he

theorem copyReadAnswer : Statement (.copyReadAnswer) := fun _ _ he => nomatch he

theorem copyProgramAnswer : Statement (.copyProgramAnswer) := fun _ _ he => nomatch he

theorem commitProgramAnswer : Statement (.commitProgramAnswer) := fun _ _ he => nomatch he

theorem patrolReadAnswer : Statement (.patrolReadAnswer) := fun _ _ he => nomatch he

theorem loaderReadAnswer : Statement (.loaderReadAnswer) := fun _ _ he => nomatch he

theorem ageDeadlineExpiry (order : Nat) : Statement (.ageDeadlineExpiry order) := fun _ _ he => nomatch he

theorem patrolExpiry : Statement (.patrolExpiry) := fun _ _ he => nomatch he

theorem engineTakeHead : Statement (.engineTakeHead) := fun _ _ he => nomatch he

theorem prepareEnd (result : ProgramResult) : Statement (.prepareEnd result) := fun _ _ he => nomatch he

theorem relocationRelease : Statement (.relocationRelease) := fun _ _ he => nomatch he

theorem relocRequest (block : Nat) (cause : RelocCause) : Statement (.relocRequest block cause) := fun _ _ he => nomatch he

theorem commitRequest (party : CommitParty) : Statement (.commitRequest party) := fun _ _ he => nomatch he

theorem watchReport (block : Nat) (bits : Nat) : Statement (.watchReport block bits) := fun _ _ he => nomatch he

theorem lostBlockAddition (block : Nat) (requester : LostRequester) : Statement (.lostBlockAddition block requester) := fun _ _ he => nomatch he

theorem healthReport (input : HealthInput) : Statement (.healthReport input) := fun _ _ he => nomatch he

theorem eventAppend (body : EventBody) : Statement (.eventAppend body) := fun _ _ he => nomatch he

theorem stagingFailedDiscard : Statement (.stagingFailedDiscard) := fun _ _ he => nomatch he

theorem hostPortFailed : Statement (.hostPortFailed) := fun _ _ he => nomatch he

theorem watchTableFailed : Statement (.watchTableFailed) := fun _ _ he => nomatch he

theorem relocationFailed : Statement (.relocationFailed) := fun _ _ he => nomatch he

theorem commitUnitStop : Statement (.commitUnitStop) := fun _ _ he => nomatch he

theorem patrolHalt : Statement (.patrolHalt) := fun _ _ he => nomatch he

theorem loaderFailedNotice : Statement (.loaderFailedNotice) := fun _ _ he => nomatch he

theorem longCommandEnding (code : LongCode) (result : LongResult) (spare : Nat) : Statement (.longCommandEnding code result spare) := fun _ _ he => nomatch he

theorem damagedFrame (bytes : List Byte) : Statement (.damagedFrame bytes) := by
  intro h frame he
  cases he
  simp only [Instr.wellFormed, Bool.and_eq_true, Bool.not_eq_true'] at h
  simp only [decodeFrame, h.1, h.2, Bool.false_eq_true, if_false, if_true]

theorem unknownCommand (code : Byte) (seq : Byte) (params : List Byte) : Statement (.unknownCommand code seq params) := by
  intro h frame he
  cases he
  simp only [Instr.wellFormed, Bool.and_eq_true, Option.isNone_iff_eq_none] at h
  rw [decodeFrame_frameBytes code seq params (by simpa [paramsFit] using h.1)]
  simp [frameRow, h.2]

theorem getStatus (seq : Byte) (params : List Byte) : Statement (.getStatus seq params) := by
  intro h frame he
  cases he
  exact decodeFrame_code .getStatus seq params h

theorem getResult (seq : Byte) (params : List Byte) : Statement (.getResult seq params) := by
  intro h frame he
  cases he
  exact decodeFrame_code .getResult seq params h

theorem getConfig (seq : Byte) (params : List Byte) : Statement (.getConfig seq params) := by
  intro h frame he
  cases he
  exact decodeFrame_code .getConfig seq params h

theorem readLog (seq : Byte) (params : List Byte) : Statement (.readLog seq params) := by
  intro h frame he
  cases he
  exact decodeFrame_code .readLog seq params h

theorem readRemap (seq : Byte) (params : List Byte) : Statement (.readRemap seq params) := by
  intro h frame he
  cases he
  exact decodeFrame_code .readRemap seq params h

theorem readLost (seq : Byte) (params : List Byte) : Statement (.readLost seq params) := by
  intro h frame he
  cases he
  exact decodeFrame_code .readLost seq params h

theorem readWatch (seq : Byte) (params : List Byte) : Statement (.readWatch seq params) := by
  intro h frame he
  cases he
  exact decodeFrame_code .readWatch seq params h

theorem readQueue (seq : Byte) (params : List Byte) : Statement (.readQueue seq params) := by
  intro h frame he
  cases he
  exact decodeFrame_code .readQueue seq params h

theorem ackAlert (seq : Byte) (params : List Byte) : Statement (.ackAlert seq params) := by
  intro h frame he
  cases he
  exact decodeFrame_code .ackAlert seq params h

theorem abort (seq : Byte) (params : List Byte) : Statement (.abort seq params) := by
  intro h frame he
  cases he
  exact decodeFrame_code .abort seq params h

theorem setWriteMode (seq : Byte) (params : List Byte) : Statement (.setWriteMode seq params) := by
  intro h frame he
  cases he
  simp only [Instr.wellFormed, isItemOne, Bool.and_eq_true, Bool.not_eq_true'] at h
  obtain ⟨⟨⟨⟨⟨h0, h2⟩, h3⟩, h4⟩, h5⟩, h6⟩ := h
  rw [decodeFrame_code .setConfig seq params h0]
  show some (configRow seq params) = _
  simp [configRow, h2, h3, h4, h5, h6]

theorem setDrainThreshold (seq : Byte) (params : List Byte) : Statement (.setDrainThreshold seq params) := by
  intro h frame he
  cases he
  have h' : isItem params 2 = true := h
  rw [decodeFrame_code .setConfig seq params (isItem_length h')]
  show some (configRow seq params) = _
  simp [configRow, h']

theorem setEntryAgeTimer (seq : Byte) (params : List Byte) : Statement (.setEntryAgeTimer seq params) := by
  intro h frame he
  cases he
  have h' : isItem params 3 = true := h
  rw [decodeFrame_code .setConfig seq params (isItem_length h')]
  show some (configRow seq params) = _
  simp [configRow, h', isItem_unique h' (m := 2) (by decide)]

theorem setCorrectionThreshold (seq : Byte) (params : List Byte) : Statement (.setCorrectionThreshold seq params) := by
  intro h frame he
  cases he
  have h' : isItem params 4 = true := h
  rw [decodeFrame_code .setConfig seq params (isItem_length h')]
  show some (configRow seq params) = _
  simp [configRow, h', isItem_unique h' (m := 2) (by decide), isItem_unique h' (m := 3) (by decide)]

theorem setPatrolEnable (seq : Byte) (params : List Byte) : Statement (.setPatrolEnable seq params) := by
  intro h frame he
  cases he
  have h' : isItem params 5 = true := h
  rw [decodeFrame_code .setConfig seq params (isItem_length h')]
  show some (configRow seq params) = _
  simp [configRow, h', isItem_unique h' (m := 2) (by decide), isItem_unique h' (m := 3) (by decide), isItem_unique h' (m := 4) (by decide)]

theorem setPatrolInterval (seq : Byte) (params : List Byte) : Statement (.setPatrolInterval seq params) := by
  intro h frame he
  cases he
  have h' : isItem params 6 = true := h
  rw [decodeFrame_code .setConfig seq params (isItem_length h')]
  show some (configRow seq params) = _
  simp [configRow, h', isItem_unique h' (m := 2) (by decide), isItem_unique h' (m := 3) (by decide), isItem_unique h' (m := 4) (by decide), isItem_unique h' (m := 5) (by decide)]

theorem setLimit (seq : Byte) (params : List Byte) : Statement (.setLimit seq params) := by
  intro h frame he
  cases he
  exact decodeFrame_code .setLimit seq params h

theorem freezeLimit (seq : Byte) (params : List Byte) : Statement (.freezeLimit seq params) := by
  intro h frame he
  cases he
  exact decodeFrame_code .freezeLimit seq params h

theorem patrolStop (seq : Byte) (params : List Byte) : Statement (.patrolStop seq params) := by
  intro h frame he
  cases he
  simp only [Instr.wellFormed, isActionZero, Bool.and_eq_true, Bool.not_eq_true'] at h
  obtain ⟨⟨h0, h1⟩, h2⟩ := h
  rw [decodeFrame_code .patrolControl seq params h0]
  show some (patrolRow seq params) = _
  simp [patrolRow, h1, h2]

theorem patrolStart (seq : Byte) (params : List Byte) : Statement (.patrolStart seq params) := by
  intro h frame he
  cases he
  have h' : isAction params 1 = true := h
  rw [decodeFrame_code .patrolControl seq params (isAction_length h')]
  show some (patrolRow seq params) = _
  simp [patrolRow, h']

theorem patrolRestart (seq : Byte) (params : List Byte) : Statement (.patrolRestart seq params) := by
  intro h frame he
  cases he
  have h' : isAction params 2 = true := h
  rw [decodeFrame_code .patrolControl seq params (isAction_length h')]
  show some (patrolRow seq params) = _
  simp [patrolRow, h', isAction_unique h' (m := 1) (by decide)]

theorem flush (seq : Byte) (params : List Byte) : Statement (.flush seq params) := by
  intro h frame he
  cases he
  exact decodeFrame_code .flush seq params h

theorem relocateBlock (seq : Byte) (params : List Byte) : Statement (.relocateBlock seq params) := by
  intro h frame he
  cases he
  exact decodeFrame_code .relocateBlock seq params h

end Sys2Proof.Laws.FrameRoundTrip
end

