-- ==== Sys2Proof/Safety.lean ====
section
/-! DEFINITION. What a sound state is: the capacities of the manual's tables, the forms they keep, and the canonical form of the
array's list. -/

namespace Sys2Proof.Machine

/-- The buffer holds at most 64 entries (R39) and four host records (R56). -/
def StagingFits (st : Staging) : Prop :=
  occupancy st ≤ Config.stagingEntries ∧ st.hostSlots.length ≤ Config.hostBarrierSlots

/-- Entries stand in acceptance order, for each line at most one is OPEN (R39), and at most one is ISSUED (R49). -/
def StagingOrdered (st : Staging) : Prop :=
  st.entries.Pairwise (fun e f => e.order < f.order) ∧ (∀ e ∈ st.entries, e.order < st.nextOrder) ∧
  (∀ e ∈ st.entries, ∀ f ∈ st.entries, e.line = f.line → e.state = .opened → f.state = .opened → e = f) ∧
  (∀ e ∈ st.entries, ∀ f ∈ st.entries, e.state = .issued → f.state = .issued → e = f)

/-- The blocks the queue and the in-flight record name. -/
def relocBlocks (r : Reloc) : List Nat :=
  (r.record.map (·.block)).toList ++ r.urgent.map (·.block) ++ r.normal.map (·.block)

/-- The queue holds at most 16 entries, at most one per block (R100), and none for the block being migrated (R102). -/
def RelocFits (r : Reloc) : Prop := r.length ≤ Config.queueEntries ∧ (relocBlocks r).Nodup

/-- The table holds at most 32 entries, at most one per block, of counts of one byte (R88). -/
def WatchFits (w : Watch) : Prop :=
  w.entries.length ≤ Config.watchEntries ∧ (w.entries.map (·.block)).Nodup ∧ ∀ e ∈ w.entries, e.count ≤ 255

/-- The ring holds at most 32 records, and their sequences run consecutively up to the next one (R162, R163). -/
def LogConsecutive (l : EventLog) : Prop :=
  l.records.length ≤ Config.logRecords ∧ l.next < 4294967296 ∧ (∀ r ∈ l.records, r.sequence < 4294967296) ∧
  ∀ i r, l.records[i]? = some r → (r.sequence + (l.records.length - i)) % 4294967296 = l.next

/-- The array's list is in canonical form. -/
def ArrayCanonical (a : ArrayState) : Prop := cellsCanonical a.cells = true

/-- The OUTSTANDING tags of a table are the tags of the records that hold them, each once (R70). -/
def TagsMatch (table : List (Nat × Nat)) (tags : List Nat) : Prop := (table.map (·.1)).Perm tags ∧ tags.Nodup

/-- The reserve is at most 80 (R68). Of the read queue at most the head is ISSUED (R78, R80), and a read tag is one of 32 (Table 4-1),
presented or queued. The read tags are those of the queue, the write tags those that wait in entries, and the barrier tags those of the
records in host slots (R70). -/
structure PortFits (h : HostPort) (st : Staging) : Prop where
  reserve : h.reserve ≤ Config.responseRoom
  head : ∀ r ∈ h.queue.drop 1, r.issued = false
  presented : ∀ tag addr, .read tag addr ∈ h.channel → tag < 32
  queued : ∀ r ∈ h.queue, r.tag < 32
  reads : TagsMatch h.readTags (h.queue.map (·.tag))
  writes : TagsMatch h.writeTags (st.entries.flatMap (·.tags))
  barriers : TagsMatch h.barrierTags (st.hostSlots.map (·.tag))

/-- The entry holds the spare IN_USE: as its spare, or as the prior spare of its PENDING status (R25, R32). -/
def RemapEntry.Holds (e : RemapEntry) (i : Nat) : Prop :=
  match e.state with
  | .inUse => e.spare = i
  | .pending prior _ => prior = some i

/-- The remap and spare tables stand in rising order (R25, R32), and the lost list rises and holds at most 64 blocks (R34). No lost
block has a remap entry (R34). A spare is IN_USE when the entry of one block holds it, and PENDING when it is the spare of a PENDING
entry (R25, R32), of which there is at most one (R32). -/
structure TablesFit (x : Xlat) : Prop where
  remap : tableSorted x.remap = true
  spares : tableSorted x.spares = true
  listed : ∀ e ∈ x.spares, e.1 < Config.spareCount ∧ e.2 ≠ .free
  lost : rising x.lost = true
  lostLength : x.lost.length ≤ Config.lostBlocks
  unmapped : ∀ b ∈ x.lost, tableGet x.remap b = none
  inUse : ∀ i, spareState x i = .inUse ↔ ∃ b e, tableGet x.remap b = some e ∧ e.Holds i
  held : ∀ b c e f i, tableGet x.remap b = some e → tableGet x.remap c = some f → e.Holds i → f.Holds i → b = c
  pending : ∀ i, spareState x i = .pending ↔ ∃ b p m, tableGet x.remap b = some { spare := i, state := .pending p m }
  single : ∀ b c e f, tableGet x.remap b = some e → tableGet x.remap c = some f → e.state ≠ .inUse → f.state ≠ .inUse → b = c

/-- The engine is IDLE while it holds no record (R108). Every PENDING entry is that of the record's block, with the record's spare: not
marked while the engine prepares or copies, and marked while it waits for its switch (R26, R28); in PREPARE and COPY there is one. A
purpose is present in COMMIT_WAIT only (R108). A switch being written is the record's (R31, R115). No queued block is lost (R100).
While the loader loads, the engine has no record and the queue no entry (R124), and a copy it classed valid is valid (R128). -/
structure RelocLinked (x : Xlat) (r : Reloc) (switch : Option Nat) (l : Loader) : Prop where
  idle : r.engine = .idle ↔ r.record = none
  pendingOf : ∀ b sp p m, tableGet x.remap b = some { spare := sp, state := .pending p m } →
    ∃ q, r.record = some q ∧ q.block = b ∧ q.spare = some sp ∧
      if m = true then r.engine = .commitWait ∧ q.purpose = some .switch else r.engine = .prepare ∨ r.engine = .copy
  copying : ∀ q, r.record = some q → r.engine = .prepare ∨ r.engine = .copy →
    ∃ sp p, q.spare = some sp ∧ tableGet x.remap q.block = some { spare := sp, state := .pending p false }
  purpose : ∀ q, r.record = some q → q.purpose ≠ none → r.engine = .commitWait
  writing : ∀ b, switch = some b →
    r.engine = .commitWait ∧ ∃ q, r.record = some q ∧ q.block = b ∧ q.purpose = some .switch
  queued : ∀ e, e ∈ r.urgent ∨ e ∈ r.normal → e.block ∉ x.lost
  loading : l.isLoading = true → r.record = none ∧ r.urgent = [] ∧ r.normal = []
  classed : ∀ i, l.classA = some (.valid i) → imageValid x.nb i = true

/-- The switch of the image being written (R132). -/
def switchWritten (c : CommitUnit) : Option Nat := c.writing.bind (·.switch)

/-- The tables, the relocation queue and engine, the commit unit and the loader agree. -/
def TablesAgree (x : Xlat) (r : Reloc) (switch : Option Nat) (l : Loader) : Prop := TablesFit x ∧ RelocLinked x r switch l

/-- The tables of the state agree with its relocation, its commit and its loader. -/
def State.Agrees (s : State) : Prop := TablesAgree s.xlat s.reloc (switchWritten s.commit) s.loader

/-- A sound state. -/
structure State.Sound (s : State) : Prop where
  array : ArrayCanonical s.array
  stagingFits : StagingFits s.staging
  stagingOrdered : StagingOrdered s.staging
  relocFits : RelocFits s.reloc
  portFits : PortFits s.host s.staging
  tablesAgree : s.Agrees
  watchFits : WatchFits s.watch
  log : LogConsecutive s.log

/-! ## Conditions and results that the statements name -/

/-- The arbiter has nothing to choose: the port is BUSY, or no offer stands (R11). -/
def State.Rests (s : State) : Prop := s.busy = true ∨ s.choice = none

/-- The arbiter has nothing to choose, and no request waits in the channel. -/
def State.Quiet (s : State) : Prop := s.Rests ∧ s.host.channel = []

/-- The conditions of Table 4-2 that all requests share. -/
def State.TakesRequests (s : State) : Prop := s.host.ready = .opened ∧ s.host.reserve < 80

/-- The arrival checks admit the address (Table 2-1). -/
def State.Admits (s : State) (addr : Nat) : Prop :=
  s.health.state ≠ .failed ∧ addr < s.xlat.nb * 64 ∧ addr / 64 < s.xlat.el ∧ addr / 64 ∉ s.xlat.lost

/-- A frame with this sequence byte is received, is not a retry, and finds start-up ended (R168, R170, R171). -/
def State.Hears (s : State) (seq : Byte) : Prop :=
  s.inReset = false ∧ s.link.lastSeq ≠ some seq ∧ s.loader.state ≠ .loadingMfg ∧ s.loader.state ≠ .loadingField

/-- The state after the link answered a frame (R170). -/
def State.answered (s : State) (seq : Byte) (status : FrameStatus) (payload : List Byte) : State :=
  { s with link := { s.link with lastSeq := some seq, cached := responseFrame status seq payload, readable := .cached } }

/-- The state after a hand-over was taken from the list. -/
def State.without (s : State) (c : Instr) : State := { s with posted := s.posted.erase c }

/-- The state after a delivered answer was taken from the list. -/
def State.withoutDelivery (s : State) (d : Delivery) (c : Instr) : State :=
  { s with deliveries := s.deliveries.erase d, posted := s.posted.erase c }

/-- What the outcome of a read of a block sends to other blocks: a CORRECTED one a watch report, an UNCORRECTABLE one a relocation
request (R51, R82, R150). -/
def outcomeRequests (block : Nat) : Delivered → List Instr
  | .corrected n _ _ => [.watchReport block n]
  | .uncorrectable _ => [.relocRequest block .uncorrectable]
  | .clean _ _ => []
  | .program _ => []

/-- The counters after the outcome of a read was handed on (R160). -/
def outcomeCounters (c : Counters) (d : Delivered) : Counters := if d.isUncorrectable then countUncorrectable c else c

/-- The fences with the count of one line lowered by one (R47). -/
def FenceLowered (st : Staging) (line : Nat) (fences : List (Nat × Nat)) : Prop :=
  ∀ l, fenceCount { st with fences := fences } l = fenceCount st l - if l = line then 1 else 0

end Sys2Proof.Machine
end

