-- ==== Sys2Proof/Certificates/Slice0/Obligations.lean ====
section
/-! DEFINITION. The statements for the provers. -/

section Statements

open Sys2Proof Sys2Proof.Machine

/-! ## Steps -/

def Obligations.StepRunsTheFrontCommand : Prop :=
  ∀ (c : Instr) (rest : List Instr) (s : State), s.pending = c :: rest → step s = exec c { s with pending := rest }

/-- On an empty queue the oldest hand-over is taken, and without one the part idles: the model's choice (log 2). -/
def Obligations.EveryCommandAnswersAndAnEmptyQueueIdles : Prop :=
  (∀ (c : Instr) (s : State), ∃ t, exec c s = .next t ∧ t.pending = s.pending) ∧
  ∀ s : State, s.pending = [] →
    (∀ c rest, s.posted = c :: rest → step s = exec c s) ∧ (s.posted = [] → step s = .next s)

/-! ## Resets -/

/-- A power-on reset leaves every part of the state at its reset value but the array, the inputs, the count of free values and the
queue; at the array it cuts the operation in progress short. -/
def Obligations.PowerOnResetLosesEveryVolatileState : Prop :=
  (∀ s : State,
    exec .powerOnReset s = .next { State.reset with
      pins := { s.pins with porInput := true }
      array := abandonArrayOp s
      freeCount := s.freeCount
      pending := s.pending } ∧
    exec .supplyFall s = .next { State.reset with
      pins := { s.pins with supplyLow := true }
      array := abandonArrayOp s
      freeCount := s.freeCount
      pending := s.pending }) ∧
  ∀ s : State,
    (abandonArrayOp s).op = none ∧
    (∀ key, (∀ op, s.port.record.isSome = true → s.array.op = some op → op.kind = .program →
        key ≠ arrayKey op.pblock op.line) → cellAt (abandonArrayOp s).cells key = cellAt s.array.cells key) ∧
    ∀ op, s.port.record.isSome = true → s.array.op = some op → op.kind = .program →
      cellAt (abandonArrayOp s).cells (arrayKey op.pblock op.line) = .unvouched

/-- The release of the last cause of the reset begins start-up (R139, R185, R186); the reset holds while the other cause stands. -/
def Obligations.ReleaseOfTheResetBeginsStartUp : Prop :=
  (∀ (s : State) (straps : Fin 4), s.port.record = none → s.loader = resetLoader → s.log = resetLog →
    let id := s.port.nextId
    let read : OpRecord :=
      { id := id, kind := .read, requester := .loader, pblock := 0, line := 0, block := none, spare := none,
        deadline := 2000 }
    let begun (p : Pins) : State := { s with
      pins := { p with strap := straps }
      log := { records := [{ sequence := 1, body := { kind := .startup, value := straps.val } }], next := 2, alert := false }
      loader := { resetLoader with readOut := true }
      port := { record := some read, nextId := id + 1 }
      array := { s.array with op := some { id := id, kind := .read, pblock := 0, line := 0, payload := none } } }
    (s.pins.porInput = true → s.pins.supplyLow = false →
      exec (.powerOnResetRelease straps) s = .next (begun { s.pins with porInput := false })) ∧
    (s.pins.porInput = false → s.pins.supplyLow = true →
      exec (.supplyRestoration straps) s = .next (begun { s.pins with supplyLow := false }))) ∧
  ∀ (s : State) (straps : Fin 4), s.pins.porInput = true → s.pins.supplyLow = true →
    exec (.powerOnResetRelease straps) s = .next { s with pins := { s.pins with porInput := false } } ∧
    exec (.supplyRestoration straps) s = .next { s with pins := { s.pins with supplyLow := false } }

/-- The host link reset (R84, R85, R65). -/
def Obligations.HostLinkResetEmptiesAndReopensThePort : Prop :=
  (∀ s : State,
    (s.host.ready = .starting →
      exec .hostLinkResetAssert s = .next { s with pins := { s.pins with linkReset := true } }) ∧
    (s.host.ready ≠ .starting → ∃ fences : List (Nat × Nat),
      (∀ line, fenceCount { s.staging with fences := fences } line =
        fenceCount s.staging line - (s.host.queue.filter fun r => !r.issued && decide (r.addr = line)).length) ∧
      exec .hostLinkResetAssert s = .next (State.arbitrate { s with
        pins := { s.pins with linkReset := true }
        staging := { s.staging with
          entries := s.staging.entries.map fun e => { e with tags := [] }
          hostSlots := []
          fences := fences }
        host :=
          { channel := [], responses := [], readTags := [], writeTags := [], barrierTags := [], queue := [], ready := .inReset,
            abandoned := match s.host.queue.find? (fun r => r.issued) with
              | some r => some r.addr
              | none => s.host.abandoned } }))) ∧
  ∀ s : State,
    (s.host.ready ≠ .inReset →
      exec .hostLinkResetRelease s = .next { s with pins := { s.pins with linkReset := false } }) ∧
    (s.host.ready = .inReset → s.Quiet →
      exec .hostLinkResetRelease s = .next { s with
        pins := { s.pins with linkReset := false }
        host := { s.host with ready := if s.host.abandoned.isSome then .recovering else .opened } })

/-! ## Host requests -/

/-- Each byte of a snapshot is that of the newest entry of the line that holds its position, and the coverage is the union of
the masks. -/
def Obligations.SnapshotHoldsTheNewestBytes : Prop :=
  ∀ (st : Staging) (line i : Nat) (hi : i < 64),
    let own := st.entries.filter fun e => decide (e.line = line)
    (snapshot st line).2.getLsbD i = own.any (fun e => e.mask.getLsbD i) ∧
    ∀ older e newer, own = older ++ e :: newer → e.mask.getLsbD i = true →
      (∀ f ∈ newer, f.mask.getLsbD i = false) → (snapshot st line).1[i] = e.data[i]

def Obligations.ReadIsAnsweredOrQueued : Prop :=
  ∀ (tag : Fin 32) (addr : Nat) (s : State), s.Quiet → s.TakesRequests → tableGet s.host.readTags tag.val = none →
    s.Admits addr →
    ((snapshot s.staging addr).2 = fullMask → exec (.read tag addr) s = .next { s with
      host := { s.host with
        responses := s.host.responses ++ [.readResult tag.val (.ok (snapshot s.staging addr).1)] } }) ∧
    ((snapshot s.staging addr).2 ≠ fullMask → exec (.read tag addr) s = .next (State.arbitrate { s with
      staging := { s.staging with fences := tableSet s.staging.fences addr (fenceCount s.staging addr + 1) }
      host := { s.host with
        queue := s.host.queue ++ [
          { tag := tag.val, addr := addr, snapshot := (snapshot s.staging addr).1, coverage := (snapshot s.staging addr).2,
            issued := false }]
        readTags := tableSet s.host.readTags tag.val addr } }))

def Obligations.WriteMergesOrAllocates : Prop :=
  ∀ (tag : Fin 32) (addr : Nat) (data : Line) (mask : Mask) (s : State), s.Quiet → s.TakesRequests →
    occupancy s.staging < 64 → mask ≠ 0 → tableGet s.host.writeTags tag.val = none → s.Admits addr →
    let through := s.staging.mode = .through
    let host := if through then { s.host with writeTags := tableSet s.host.writeTags tag.val addr }
      else { s.host with responses := s.host.responses ++ [.writeAck tag.val .accepted] }
    ((∃ e ∈ s.staging.entries, e.line = addr ∧ e.state = .opened) →
      exec (.write tag addr data mask) s = .next (State.arbitrate { s with
        staging := { s.staging with
          entries := s.staging.entries.map fun e =>
            if e.line = addr ∧ e.state = .opened then
              { e with
                data := overlay mask data e.data
                mask := e.mask ||| mask
                tags := if through then e.tags ++ [tag.val] else e.tags }
            else e }
        host := host })) ∧
    ((∀ e ∈ s.staging.entries, e.line = addr → e.state ≠ .opened) →
      exec (.write tag addr data mask) s = .next (State.arbitrate { s with
        staging := { s.staging with
          entries := s.staging.entries ++ [
            { line := addr, data := overlay mask data zeroLine, mask := mask, epoch := s.staging.epoch, state := .opened,
              hold :=
                if ∃ e ∈ s.staging.entries, e.block = addr / 64 ∧ e.hold = .srcFailed then .srcFailed
                else if s.staging.migrating = some (addr / 64) then .migrating
                else .none,
              order := s.staging.nextOrder, ageTimer := s.staging.ageTimer, agePassed := false,
              tags := if through then [tag.val] else [], merged := none }]
          nextOrder := s.staging.nextOrder + 1 }
        host := host }))

def Obligations.BarrierClosesTheEpoch : Prop :=
  ∀ (tag : Fin 8) (s : State), s.Quiet → s.TakesRequests → s.staging.hostSlots.length < 4 →
    tableGet s.host.barrierTags tag.val = none → s.health.state ≠ .failed →
    ((∃ e ∈ s.staging.entries, e.epoch ≤ s.staging.epoch) →
      (∀ r ∈ s.staging.hostSlots, ∃ e ∈ s.staging.entries, e.epoch ≤ r.epoch) →
      (∀ r, s.staging.flushSlot = some r → ∃ e ∈ s.staging.entries, e.epoch ≤ r.epoch) →
      exec (.barrier tag) s = .next (State.arbitrate { s with
        staging := { s.staging with
          entries := s.staging.entries.map fun e => if e.state = .opened then { e with state := .sealed } else e
          epoch := s.staging.epoch + 1
          hostSlots := s.staging.hostSlots ++ [{ tag := tag.val, epoch := s.staging.epoch, failFlag := false }] }
        host := { s.host with barrierTags := tableSet s.host.barrierTags tag.val s.staging.epoch } })) ∧
    (s.staging.entries = [] → s.staging.hostSlots = [] → s.staging.flushSlot = none → s.host.barrierTags = [] →
      exec (.barrier tag) s = .next (State.arbitrate { s with
        staging := { s.staging with epoch := s.staging.epoch + 1 }
        host := { s.host with responses := s.host.responses ++ [.barrierDone tag.val .durable] }
        freeCount := s.freeCount + 1 }))

/-- The requests that a check turns away: answered at once, and no other block changes but the event log (R18, R71, R72). -/
def Obligations.RefusedRequestsAreAnsweredAtOnce : Prop :=
  ∀ (s : State), s.Quiet → s.TakesRequests →
    let answer (r : Response) : State := { s with host := { s.host with responses := s.host.responses ++ [r] } }
    let error (r : Response) (block : Option Nat) (value : Nat) : State := { s with
      host := { s.host with responses := s.host.responses ++ [r] }
      log := appendRecord s.log { kind := .hostProtocolError, block := block, value := value } }
    let named (addr : Nat) : Option Nat := if addr / 64 < s.xlat.nb then some (addr / 64) else none
    (∀ (tag : Fin 32) addr, (tableGet s.host.readTags tag.val).isSome = true →
      exec (.read tag addr) s = .next (error (.readResult tag.val .tagError) (named addr) (512 + 65536 * tag.val))) ∧
    (∀ (tag : Fin 32) addr, tableGet s.host.readTags tag.val = none →
      (s.health.state = .failed → exec (.read tag addr) s = .next (answer (.readResult tag.val .poison))) ∧
      (s.health.state ≠ .failed → s.xlat.nb * 64 ≤ addr ∨ s.xlat.el ≤ addr / 64 →
        exec (.read tag addr) s = .next (answer (.readResult tag.val .range))) ∧
      (s.health.state ≠ .failed → addr < s.xlat.nb * 64 → addr / 64 < s.xlat.el → addr / 64 ∈ s.xlat.lost →
        exec (.read tag addr) s = .next (answer (.readResult tag.val .poison)))) ∧
    (∀ (tag : Fin 32) addr data mask, occupancy s.staging < 64 →
      (mask = 0 → exec (.write tag addr data mask) s =
        .next (error (.writeAck tag.val .malformed) (named addr) (257 + 65536 * tag.val))) ∧
      (mask ≠ 0 → (tableGet s.host.writeTags tag.val).isSome = true → exec (.write tag addr data mask) s =
        .next (error (.writeAck tag.val .tagError) (named addr) (513 + 65536 * tag.val))) ∧
      (mask ≠ 0 → tableGet s.host.writeTags tag.val = none →
        (s.health.state = .failed → exec (.write tag addr data mask) s = .next (answer (.writeAck tag.val .mediaFail))) ∧
        (s.health.state ≠ .failed → s.xlat.nb * 64 ≤ addr ∨ s.xlat.el ≤ addr / 64 →
          exec (.write tag addr data mask) s = .next (answer (.writeAck tag.val .range))) ∧
        (s.health.state ≠ .failed → addr < s.xlat.nb * 64 → addr / 64 < s.xlat.el → addr / 64 ∈ s.xlat.lost →
          exec (.write tag addr data mask) s = .next (answer (.writeAck tag.val .mediaFail))))) ∧
    (∀ (tag : Fin 8), s.staging.hostSlots.length < 4 →
      ((tableGet s.host.barrierTags tag.val).isSome = true → exec (.barrier tag) s =
        .next (error (.barrierDone tag.val .tagError) none (514 + 65536 * tag.val))) ∧
      (tableGet s.host.barrierTags tag.val = none → s.health.state = .failed →
        exec (.barrier tag) s = .next (answer (.barrierDone tag.val .fail))))

/-- A request that Table 4-2 does not let the port take waits in the channel; in IN_RESET it is discarded (R66, R83, R84). -/
def Obligations.RequestsWaitInTheChannel : Prop :=
  ∀ (s : State), s.Rests →
    let held (r : HostRequest) : State := { s with host := { s.host with channel := s.host.channel ++ [r] } }
    let closed := s.host.ready = .starting ∨ s.host.ready = .recovering ∨ s.host.ready = .opened ∧ 80 ≤ s.host.reserve
    (closed →
      (∀ (tag : Fin 32) addr, exec (.read tag addr) s = .next (held (.read tag.val addr))) ∧
      (∀ (tag : Fin 32) addr data mask,
        exec (.write tag addr data mask) s = .next (held (.write tag.val addr data mask))) ∧
      (∀ (tag : Fin 8), exec (.barrier tag) s = .next (held (.barrier tag.val)))) ∧
    (s.host.channel = [] → s.host.ready = .opened →
      (∀ (tag : Fin 32) addr data mask, 64 ≤ occupancy s.staging →
        exec (.write tag addr data mask) s = .next (held (.write tag.val addr data mask))) ∧
      (∀ (tag : Fin 8), 4 ≤ s.staging.hostSlots.length → exec (.barrier tag) s = .next (held (.barrier tag.val)))) ∧
    (s.host.channel = [] → s.host.ready = .inReset →
      (∀ (tag : Fin 32) addr, exec (.read tag addr) s = .next s) ∧
      (∀ (tag : Fin 32) addr data mask, exec (.write tag addr data mask) s = .next s) ∧
      (∀ (tag : Fin 8), exec (.barrier tag) s = .next s))

/-- RESPONSE_TAKEN (R67, R68). That it changes nothing when no response is in the queue is the model's choice (log 3). -/
def Obligations.ResponseTakenLeavesTheQueue : Prop :=
  ∀ (s : State), s.Rests →
    (s.host.responses = [] → exec .responseTaken s = .next s) ∧
    ∀ r rest, s.host.responses = r :: rest →
      let freed : State := { s with host := { s.host with responses := rest } }
      (s.host.channel = [] → exec .responseTaken s = .next freed) ∧
      ∀ req, s.host.channel = [req] → s.host.ready ≠ .inReset → freed.canTake req = true →
        exec .responseTaken s = .next (State.arbitrate (State.takeRequest
          { s with host := { s.host with responses := rest, channel := [] } } req))

/-! ## The media port, the array and the arbiter -/

/-- The forms in which an answer is delivered (Table 1-2). -/
def Obligations.AnswersAreDeliveredAsTable12Gives : Prop :=
  ∀ (content : LineContent) (poison : Bool),
    deliveredRead .clean content poison = .clean content poison ∧
    (∀ n, 1 ≤ n → n ≤ 4 → deliveredRead (.corrected n) content poison = .corrected n content poison) ∧
    deliveredRead (.corrected 0) content poison = .clean content poison ∧
    (∀ n, 4 < n → deliveredRead (.corrected n) content poison = .uncorrectable poison) ∧
    deliveredRead .uncorrectable content poison = .uncorrectable poison ∧
    deliveredTimeout .read = .uncorrectable false ∧ deliveredTimeout .program = .program .fail ∧
    (Delivered.uncorrectable poison).content = .bytes zeroLine ∧ (Delivered.uncorrectable poison).poison = poison

/-- A matching answer of a read ends the operation; the lines of the array stay. -/
def Obligations.ReadAnswerEndsTheOperation : Prop :=
  ∀ (s : State) (r : OpRecord) (o : ArrayOp) (outcome : ArrayOutcome), s.port.record = some r → r.kind = .read →
    s.array.op = some o → o.kind = .read →
    let ended (content : LineContent) (poison : Bool) : State := { s with
      port := { s.port with record := none }
      array := { s.array with op := none }
      deliveries := s.deliveries ++ [{ record := r, answer := deliveredRead outcome content poison }]
      posted := s.posted ++ [deliveryCommand r] }
    let held := cellAt s.array.cells (r.pblock * 64 + r.line)
    (∀ content poison,
      exec (.mediaAnswer r.id (.read outcome (.given content poison)) .deliveryFirst) s = .next (ended content poison) ∧
      exec (.mediaAnswer r.id (.read outcome (.given content poison)) .choiceFirst) s =
        .next (ended content poison).arbitrate) ∧
    (∀ content poison, held = .vouched content poison →
      exec (.mediaAnswer r.id (.read outcome .stored) .deliveryFirst) s = .next (ended content poison) ∧
      exec (.mediaAnswer r.id (.read outcome .stored) .choiceFirst) s = .next (ended content poison).arbitrate) ∧
    (held = .unvouched →
      let free := Config.unvouchedLine s.freeCount
      exec (.mediaAnswer r.id (.read outcome .stored) .deliveryFirst) s =
        .next { ended (.bytes free.1) free.2 with freeCount := s.freeCount + 1 } ∧
      exec (.mediaAnswer r.id (.read outcome .stored) .choiceFirst) s =
        .next (State.arbitrate { ended (.bytes free.1) free.2 with freeCount := s.freeCount + 1 }))

/-- A matching answer of a program ends the operation: after DONE the line holds what was programmed, after FAIL it is not
vouched for, and every other line stays. -/
def Obligations.ProgramAnswerEndsTheOperation : Prop :=
  ∀ (s : State) (r : OpRecord) (o : ArrayOp) (content : LineContent) (poison : Bool) (result : ProgramResult),
    s.port.record = some r → r.kind = .program → s.array.op = some o → o.kind = .program →
    o.payload = some (content, poison) →
    ∃ cells,
      (∀ key, cellAt cells key =
        if key = o.pblock * 64 + o.line then
          match result with
          | .done => .vouched content poison
          | .fail => .unvouched
        else cellAt s.array.cells key) ∧
      let ended : State := { s with
        port := { s.port with record := none }
        array := { cells := cells, op := none }
        deliveries := s.deliveries ++ [{ record := r, answer := .program result }]
        posted := s.posted ++ [deliveryCommand r] }
      exec (.mediaAnswer r.id (.program result) .deliveryFirst) s = .next ended ∧
      exec (.mediaAnswer r.id (.program result) .choiceFirst) s = .next ended.arbitrate

/-- The media timeout: MEDIA_TIMEOUT is appended and the operation ends, in either order (R14, log 9); the line of a program
is not vouched for (log 10). An answer that finds the port IDLE or does not match is discarded (R8). A matching answer of the other kind
ends the operation too (R8, R15), with an outcome that is a free value (log 18). That a timeout at an IDLE port changes nothing is the
model's choice (log 3). -/
def Obligations.TimeoutsEndTheOperationAndOtherAnswersAreDiscarded : Prop :=
  ∀ (s : State),
    (∀ (id : BitVec 16) (answer : ArrayAnswer) (order : AnswerOrder),
      (s.port.record = none ∨ ∃ r, s.port.record = some r ∧ r.id ≠ id) → exec (.mediaAnswer id answer order) s = .next s) ∧
    (s.port.record = none → ∀ order event, exec (.mediaTimeout order event) s = .next s) ∧
    ∀ (r : OpRecord) (o : ArrayOp), s.port.record = some r → s.array.op = some o → o.kind = r.kind →
      let ended (array : ArrayState) (d : Delivered) : State := { s with
        port := { s.port with record := none }
        array := array
        deliveries := s.deliveries ++ [{ record := r, answer := d }]
        posted := s.posted ++ [deliveryCommand r] }
      (∃ array : ArrayState,
        (r.kind = .read → array = s.array) ∧
        (r.kind = .program → array.op = none ∧ ∀ key, cellAt array.cells key =
          if key = o.pblock * 64 + o.line then .unvouched else cellAt s.array.cells key) ∧
        let event : EventBody :=
          { kind := .mediaTimeout, block := r.block, spare := r.spare, line := some r.line, value := r.pblock }
        let finished := ended array (deliveredTimeout r.kind)
        let first : State := { finished with log := appendRecord s.log event }
        let second : State := { finished with posted := finished.posted ++ [.eventAppend event] }
        exec (.mediaTimeout .deliveryFirst .eventFirst) s = .next first ∧
        exec (.mediaTimeout .choiceFirst .eventFirst) s = .next first.arbitrate ∧
        exec (.mediaTimeout .deliveryFirst .deliveryFirst) s = .next second ∧
        exec (.mediaTimeout .choiceFirst .deliveryFirst) s = .next second.arbitrate) ∧
      (r.kind = .program → ∃ array : ArrayState, array.op = none ∧
        (∀ key, cellAt array.cells key =
          if key = o.pblock * 64 + o.line then .unvouched else cellAt s.array.cells key) ∧
        ∀ outcome source,
          let finished : State :=
            { ended array (.program (Config.freeResult s.freeCount)) with freeCount := s.freeCount + 1 }
          exec (.mediaAnswer r.id (.read outcome source) .deliveryFirst) s = .next finished ∧
          exec (.mediaAnswer r.id (.read outcome source) .choiceFirst) s = .next finished.arbitrate) ∧
      (r.kind = .read → ∀ result,
        let free := Config.freeRead s.freeCount
        let finished : State :=
          { ended { s.array with op := none } (deliveredRead free.1 free.2.1 free.2.2) with freeCount := s.freeCount + 1 }
        exec (.mediaAnswer r.id (.program result) .deliveryFirst) s = .next finished ∧
        exec (.mediaAnswer r.id (.program result) .choiceFirst) s = .next finished.arbitrate)

/-- While the port is BUSY or no offer stands the arbiter does nothing; otherwise it takes the first requester of the order in
force, whose operation takes the current identifier and a deadline of 2 ms; and afterwards it has nothing to choose. When each requester
offers (R10, R13, R80, R23): in FAILED commit unit, engine and scanner offer nothing (R17, R123, R138, R154), and that this holds before their
notices is log 16. -/
def Obligations.ArbiterTakesTheHighestClass : Prop :=
  ∀ s : State,
    (s.busy = true ∨ (∀ q, s.offers q = false) → s.arbitrate = s) ∧
    s.arbitrate.Rests ∧
    (s.health.state = .failed → ∀ q ∈ [Requester.commit, .relocation, .patrol], s.offers q = false) ∧
    (s.offers .hostRead = true ↔ ∃ r rest, s.host.queue = r :: rest ∧ r.issued = false) ∧
    (s.offers .commit = true ↔
      s.health.state ≠ .failed ∧ s.commit.writing ≠ none ∧ s.commit.stopped = false ∧ s.commit.progOut = false) ∧
    (s.offers .relocation = true ↔
      s.health.state ≠ .failed ∧ s.reloc.engine = .copy ∧ s.reloc.failed = false ∧ s.reloc.stepOut = false ∧
        ∃ x src sp, s.reloc.record = some x ∧ x.source = some src ∧ x.spare = some sp) ∧
    (s.offers .drain = true ↔ ∃ e kind, drainOffer s.staging = some (e, kind) ∧ e.line / 64 ∉ s.xlat.lost) ∧
    (s.offers .patrol = true ↔ s.health.state ≠ .failed ∧ ∃ r, s.patrol.outstanding = some r ∧ r.issued = false) ∧
    (s.offers .loader = true ↔
      s.inReset = false ∧ (s.loader.state = .loadingMfg ∨ s.loader.state = .loadingField) ∧
        s.loader.task ∈ [LoaderTask.m0, .m1, .fieldA, .fieldB] ∧ s.loader.readOut = false) ∧
    ∀ q, s.busy = false → s.choice = some q →
      (∃ above below,
        (if 56 ≤ occupancy s.staging then
            [Requester.loader, .drain, .hostRead, .commit, .relocation, .patrol]
          else [Requester.loader, .hostRead, .commit, .relocation, .drain, .patrol]) = above ++ q :: below ∧
        (∀ p ∈ above, s.offers p = false) ∧ s.offers q = true) ∧
      (q ≠ .hostRead ∨ (∀ r rest, s.host.queue = r :: rest → r.addr / 64 ∉ s.xlat.lost) →
        ∃ r payload, r.requester = q ∧ r.id = s.port.nextId ∧ r.deadline = 2000 ∧
          s.arbitrate.port = { record := some r, nextId := s.port.nextId + 1 } ∧
          s.arbitrate.array = { s.array with
            op := some { id := r.id, kind := r.kind, pblock := r.pblock, line := r.line, payload := payload } })

/-- What the arbiter issues of each class, and what becomes of the requester's offer. Write step 0 to 446 of a commit programs the image
line after it, and step 447 the header, line 0; a line of copy A lies in physical block 2 + line / 64, one of copy B in 9 + line / 64, where the
loader reads it too (R127, R141); M0 and M1 lie in physical blocks 0 and 1 (R140). -/
def Obligations.IssueOfEachClass : Prop :=
  ∀ s : State, s.busy = false →
    let issued (t : State) (kind : OpKind) (q : Requester) (pblock line : Nat) (block : Option Nat)
        (payload : Option (LineContent × Bool)) : State := { t with
      port :=
        { record := some
            { id := s.port.nextId, kind := kind, requester := q, pblock := pblock, line := line, block := block,
              spare := if 260096 ≤ pblock then some (pblock - 260096) else none, deadline := 2000 }
          nextId := s.port.nextId + 1 }
      array := { s.array with
        op := some { id := s.port.nextId, kind := kind, pblock := pblock, line := line, payload := payload } } }
    (∀ r rest, s.choice = some .hostRead → s.host.queue = r :: rest → r.addr / 64 ∉ s.xlat.lost →
      s.arbitrate = issued { s with host := { s.host with queue := { r with issued := true } :: rest } } .read .hostRead
        (Machine.translate s.xlat (r.addr / 64)) (r.addr % 64) (some (r.addr / 64)) none) ∧
    (∀ r rest, s.choice = some .hostRead → s.host.queue = r :: rest → r.addr / 64 ∈ s.xlat.lost →
      s.arbitrate = State.arbitrate (State.lowerFence { s with host := { s.host with
        queue := rest
        responses := s.host.responses ++ [.readResult r.tag .poison]
        readTags := tableErase s.host.readTags r.tag } } r.addr)) ∧
    (∀ w, s.choice = some .commit → s.commit.writing = some w →
      s.arbitrate = issued { s with commit := { s.commit with progOut := true } } .program .commit
        ((match w.target with
          | .a => 2
          | .b => 9) + (if w.step < 447 then w.step + 1 else 0) / 64)
        ((if w.step < 447 then w.step + 1 else 0) % 64) none
        (some (.image w.image (if w.step < 447 then w.step + 1 else 0), false))) ∧
    (∀ x src sp, s.choice = some .relocation → s.reloc.record = some x → x.source = some src → x.spare = some sp →
      (x.buffer = none → s.arbitrate = issued { s with reloc := { s.reloc with stepOut := true } } .read .relocation
        src x.cursor (some x.block) none) ∧
      (∀ data poison, x.buffer = some (data, poison) →
        s.arbitrate = issued
          { s with reloc := { s.reloc with stepOut := true, record := some { x with buffer := none } } } .program .relocation
          (260096 + sp) x.cursor none (some (.bytes data, poison)))) ∧
    (∀ e kind, s.choice = some .drain → drainOffer s.staging = some (e, kind) →
      s.arbitrate = issued
        { s with staging := { s.staging with
            entries := s.staging.entries.map fun f => if f.order = e.order then { f with state := .issued } else f
            drainOp := some { order := e.order, kind := kind } } } kind .drain
        (Machine.translate s.xlat (e.line / 64)) (e.line % 64) (some (e.line / 64))
        (if kind = .program then some (.bytes (e.merged.getD (e.data, false)).1, (e.merged.getD (e.data, false)).2)
          else none)) ∧
    (∀ r, s.choice = some .patrol → s.patrol.outstanding = some r →
      s.arbitrate = issued { s with patrol := { s.patrol with outstanding := some { r with issued := true } } } .read .patrol
        (Machine.translate s.xlat r.block) r.line (some r.block) none) ∧
    (s.choice = some .loader →
      let reads (pblock : Nat) : Prop := s.arbitrate =
        issued { s with loader := { s.loader with readOut := true } } .read .loader pblock (s.loader.line % 64) none none
      (s.loader.task = .m0 → reads 0) ∧ (s.loader.task = .m1 → reads 1) ∧
      (s.loader.task = .fieldA → reads (2 + s.loader.line / 64)) ∧ (s.loader.task = .fieldB → reads (9 + s.loader.line / 64)))

/-- The drain's choice (R49): nothing while an operation of its own is in progress; else the program of the ISSUED entry; else, with none
ISSUED, the oldest entry that is eligible, without a hold, without an older entry of its line, on a line without a fence. -/
def Obligations.DrainChoosesTheOldestIssuableEntry : Prop :=
  ∀ st : Staging, (st.drainOp ≠ none → drainOffer st = none) ∧ (st.drainOp = none →
    (∀ e older newer, st.entries = older ++ e :: newer → e.state = .issued → (∀ f ∈ older, f.state ≠ .issued) →
      drainOffer st = some (e, .program)) ∧
    ((∀ f ∈ st.entries, f.state ≠ .issued) → ∀ (e : Entry) (kind : OpKind), drainOffer st = some (e, kind) ↔
      ∃ older newer, st.entries = older ++ e :: newer ∧
        kind = (if e.mask = fullMask then .program else .read) ∧
        (let can (f : Entry) : Prop :=
          (st.threshold ≤ st.entries.length ∨ f.agePassed = true ∨ (∃ r ∈ st.hostSlots, f.epoch ≤ r.epoch) ∨
            (∃ r, st.flushSlot = some r ∧ f.epoch ≤ r.epoch) ∨ st.mode = .through ∨ f.tags ≠ []) ∧
          f.hold = .none ∧ (∀ g ∈ st.entries, g.line = f.line → f.order ≤ g.order) ∧ fenceCount st f.line = 0
        can e ∧ ∀ f ∈ older, ¬ can f)))

/-! ## Address translation -/

/-- The slip location of a block is the block's place among the blocks of the data region that are not primary defects. R21's
sentence on block NB − 1 needs the last block of the region not to be a defect (log 33). -/
def Obligations.SlipLocationSkipsTheDefects : Prop :=
  ∀ (x : Xlat) (block : Nat), rising x.defects = true → (∀ d ∈ x.defects, 16 ≤ d ∧ d ≤ 260095) →
    x.nb = 260080 - x.defects.length → block < x.nb →
    slipLocation x block ∉ x.defects ∧
    slipLocation x block = 16 + block + (x.defects.filter fun d => decide (d < slipLocation x block)).length ∧
    16 + block ≤ slipLocation x block ∧ slipLocation x block ≤ 16 + block + x.defects.length ∧
    slipLocation x block ≤ 260095 ∧ (260095 ∉ x.defects → block = x.nb - 1 → slipLocation x block = 260095) ∧
    ∀ y : Xlat, y.defects = x.defects → slipLocation y block = slipLocation x block

/-- Two blocks never share a physical block: slip locations are distinct, and a remapped block lies in a spare of its own. -/
def Obligations.TranslationIsInjective : Prop :=
  ∀ (x : Xlat), rising x.defects = true → (∀ d ∈ x.defects, 16 ≤ d ∧ d ≤ 260095) →
    x.nb = 260080 - x.defects.length →
    let home (block : Nat) : Option Nat := match tableGet x.remap block with
      | some { spare := i, state := .inUse } => some i
      | some { spare := _, state := .pending prior _ } => prior
      | none => none
    (∀ a b i, home a = some i → home b = some i → a = b) →
    (∀ a i, home a = some i → Machine.translate x a = 260096 + i) ∧
    (∀ a, home a = none → Machine.translate x a = slipLocation x a) ∧
    ∀ a b, a < x.nb → b < x.nb → Machine.translate x a = Machine.translate x b → a = b

/-! ## Deliveries to the requesters -/

def Obligations.HostReadIsAnswered : Prop :=
  ∀ (s : State) (d : Delivery), s.deliveredFor .hostReadAnswer = some d → s.host.channel = [] →
    let s0 := s.withoutDelivery d .hostReadAnswer
    (∀ r rest, s.host.abandoned = none → s.host.queue = r :: rest → r.issued = true →
      ∃ fences, FenceLowered s.staging r.addr fences ∧
        let answered (status : ReadStatus) : State := { s0 with
          staging := { s.staging with fences := fences }
          host := { s.host with
            queue := rest
            responses := s.host.responses ++ [.readResult r.tag status]
            readTags := tableErase s.host.readTags r.tag } }
        let status : ReadStatus :=
          if d.answer.isUncorrectable = true ∨ d.answer.poison = true then .poison
          else .ok (overlay r.coverage r.snapshot d.answer.bytes)
        (s.health.state ≠ .failed → exec .hostReadAnswer s = .next (State.arbitrate
          { answered status with
            health := { s.health with counters := outcomeCounters s.health.counters d.answer }
            posted := s0.posted ++ outcomeRequests (r.addr / 64) d.answer })) ∧
        (s.health.state = .failed → exec .hostReadAnswer s = .next (answered .poison).arbitrate)) ∧
    (∀ line, s.host.abandoned = some line →
      ∃ fences, FenceLowered s.staging line fences ∧
        exec .hostReadAnswer s = .next (State.arbitrate { s0 with
          staging := { s.staging with fences := fences }
          host := { s.host with
            abandoned := none
            ready := if s.host.ready = .recovering then .opened else s.host.ready } }))

/-- The end of a read-modify-write read (R51, R54, R61). In FAILED an UNCORRECTABLE answer is taken after the notice of the buffer, so that its
entry is discarded (R161, R62): that the notice comes first is log 17. -/
def Obligations.ReadModifyWriteBuildsTheMergedLine : Prop :=
  ∀ (s : State) (d : Delivery) (op : DrainOp), s.deliveredFor .rmwReadAnswer = some d → s.staging.drainOp = some op →
    let s0 := s.withoutDelivery d .rmwReadAnswer
    (∀ e, s.staging.entries.find? (fun f => decide (f.order = op.order)) = some e →
      s.health.state ≠ .failed ∨ d.answer.isUncorrectable = false →
      (e.state = .issued →
        let merged : Line × Bool := (overlay e.mask e.data d.answer.bytes, d.answer.isUncorrectable || d.answer.poison)
        let counted := if d.answer.isUncorrectable then countPoisoned s.health.counters else s.health.counters
        exec .rmwReadAnswer s = .next (State.arbitrate { s0 with
          staging := { s.staging with
            drainOp := none
            entries := s.staging.entries.map fun f => if f.order = e.order then { f with merged := some merged } else f }
          health := { s.health with counters := outcomeCounters counted d.answer }
          log := if d.answer.isUncorrectable then
              appendRecord s.log
                { kind := .linePoisoned, block := some (e.line / 64), line := some (e.line % 64), value := 0 }
            else s.log
          posted := s0.posted ++ outcomeRequests (e.line / 64) d.answer })) ∧
      (e.state ≠ .issued →
        exec .rmwReadAnswer s = .next (State.arbitrate { s0 with
          staging := { s.staging with drainOp := none }
          health := { s.health with counters := outcomeCounters s.health.counters d.answer }
          posted := s0.posted ++ outcomeRequests (e.line / 64) d.answer }))) ∧
    (∀ e, s.staging.entries.find? (fun f => decide (f.order = op.order)) = some e →
      s.health.state = .failed → d.answer.isUncorrectable = true → s.inReset = false → s.host.channel = [] →
      exec .rmwReadAnswer s = exec .stagingFailedDiscard { s0 with staging := { s.staging with drainOp := none } }) ∧
    (s.staging.entries.find? (fun f => decide (f.order = op.order)) = none →
      exec .rmwReadAnswer s = .next (State.arbitrate { s0 with staging := { s.staging with drainOp := none } }))

/-- The end of a drain program (R52, R53, R61). `told` is the report to an engine that waits in PREPARE for the block (R111). In FAILED a
FAIL is taken after the notice of the buffer, so that its entry is discarded (R161, R62): that the notice comes first is log 17. -/
def Obligations.DrainProgramFreesOrHoldsTheEntry : Prop :=
  ∀ (s : State) (d : Delivery) (op : DrainOp) (result : ProgramResult), s.deliveredFor .drainProgramAnswer = some d →
    d.answer = .program result → s.staging.drainOp = some op → s.host.channel = [] →
    let s0 := s.withoutDelivery d .drainProgramAnswer
    (∀ e, s.staging.entries.find? (fun f => decide (f.order = op.order)) = some e →
      let told (t : State) : State :=
        if s.reloc.engine = .prepare ∧ s.reloc.isMigrating (e.line / 64) = true then
          { t with posted := t.posted ++ [.prepareEnd result] }
        else t
      (result = .done → exec .drainProgramAnswer s = .next (State.arbitrate (told (State.examineBarriers { s0 with
        staging := { s.staging with
          drainOp := none
          entries := s.staging.entries.filter fun f => decide (f.order ≠ e.order) }
        host := { s.host with
          responses := s.host.responses ++ e.tags.map fun tag => .writeAck tag .durable
          writeTags := e.tags.foldl tableErase s.host.writeTags } })))) ∧
      (result = .fail → s.health.state ≠ .failed →
        let t := told { s0 with
          staging := { s.staging with
            drainOp := none
            entries := s.staging.entries.map fun f =>
              if f.line / 64 ≠ e.line / 64 then f
              else if f.order = e.order then
                { f with
                  state :=
                    if f.epoch = s.staging.epoch ∧ ∀ g ∈ s.staging.entries, g.line = f.line → g.order = f.order then
                      .opened
                    else .sealed
                  hold := .srcFailed
                  merged := none }
              else { f with hold := .srcFailed } }
          health := { s.health with counters := countProgramFailure s.health.counters } }
        exec .drainProgramAnswer s =
          .next (State.arbitrate { t with posted := t.posted ++ [.relocRequest (e.line / 64) .programFail] })) ∧
      (result = .fail → s.health.state = .failed → s.inReset = false →
        exec .drainProgramAnswer s = exec .stagingFailedDiscard { s0 with staging := { s.staging with drainOp := none } })) ∧
    (s.staging.entries.find? (fun f => decide (f.order = op.order)) = none →
      exec .drainProgramAnswer s = .next (State.arbitrate { s0 with staging := { s.staging with drainOp := none } }))

/-- The examination of the barrier list: exactly the records without a covered entry in the buffer complete, each host record by
one BARRIER_DONE, in an order left open (R58, R77, log 15). -/
def Obligations.BarriersCompleteWhenNothingIsCovered : Prop :=
  ∀ s : State,
    let complete (epoch : Nat) : Bool := s.staging.entries.all fun e => !decide (e.epoch ≤ epoch)
    let ended := s.staging.hostSlots.filter fun r => complete r.epoch
    let flushed := s.staging.flushSlot.filter fun r => complete r.epoch
    ∃ order : List BarrierRecord, order.Perm ended ∧
      s.examineBarriers = { s with
        staging := { s.staging with
          hostSlots := s.staging.hostSlots.filter fun r => !complete r.epoch
          flushSlot := s.staging.flushSlot.filter fun r => !complete r.epoch }
        host := { s.host with
          responses := s.host.responses ++
            order.map fun r => .barrierDone r.tag (if r.failFlag then .fail else .durable)
          barrierTags := (order.map (·.tag)).foldl tableErase s.host.barrierTags }
        posted := s.posted ++ (flushed.map fun r =>
          Instr.longCommandEnding .flush (if r.failFlag then .dataLost else .ok) 0).toList
        freeCount := s.freeCount + ended.length }

/-- The end of a copy read (R112). In FAILED, or after the notice, the engine takes no action (R123, log 16). -/
def Obligations.CopyReadFillsTheLineBuffer : Prop :=
  ∀ (s : State) (d : Delivery), s.deliveredFor .copyReadAnswer = some d →
    let s0 := s.withoutDelivery d .copyReadAnswer
    (s.reloc.failed = true ∨ s.health.state = .failed → exec .copyReadAnswer s =
      .next (State.arbitrate { s0 with reloc := { s.reloc with stepOut := false } })) ∧
    ∀ x : RelocRecord, s.reloc.failed = false → s.health.state ≠ .failed → s.reloc.engine = .copy →
      s.reloc.record = some x →
      let filled (buffer : Line × Bool) (poisoned : Nat) : Reloc :=
        { s.reloc with stepOut := false, record := some { x with buffer := some buffer, poisoned := poisoned } }
      (d.answer.isUncorrectable = true →
        exec .copyReadAnswer s = .next (State.arbitrate { s0 with
          reloc := filled (zeroLine, true) (x.poisoned + 1)
          health := { s.health with counters := countPoisoned (countUncorrectable s.health.counters) }
          log := appendRecord s.log
            { kind := .linePoisoned, block := some x.block, spare := x.spare, line := some x.cursor, value := x.attempt } })) ∧
      (d.answer.isUncorrectable = false → d.answer.poison = true →
        exec .copyReadAnswer s = .next (State.arbitrate { s0 with reloc := filled (zeroLine, true) x.poisoned })) ∧
      (d.answer.isUncorrectable = false → d.answer.poison = false →
        exec .copyReadAnswer s = .next (State.arbitrate { s0 with reloc := filled (d.answer.bytes, false) x.poisoned }))

/-- The end of a spare program (R113 to R115, R117, R27, R28). In FAILED, or after the notice, the engine takes no action (R123, log 16). -/
def Obligations.CopyProgramAdvancesOrEndsTheAttempt : Prop :=
  ∀ (s : State) (d : Delivery), s.deliveredFor .copyProgramAnswer = some d →
    let s0 := s.withoutDelivery d .copyProgramAnswer
    (s.reloc.failed = true ∨ s.health.state = .failed → exec .copyProgramAnswer s =
      .next (State.arbitrate { s0 with reloc := { s.reloc with stepOut := false } })) ∧
    ∀ (x : RelocRecord) (sp : Nat), s.reloc.failed = false → s.health.state ≠ .failed → s.reloc.engine = .copy →
      s.reloc.record = some x → x.spare = some sp → s.host.channel = [] →
      (d.answer = .program .done → x.cursor < 63 →
        exec .copyProgramAnswer s = .next (State.arbitrate { s0 with
          reloc := { s.reloc with stepOut := false, record := some { x with buffer := none, cursor := x.cursor + 1 } } })) ∧
      (d.answer = .program .done → x.cursor = 63 →
        ∀ prior mark, tableGet s.xlat.remap x.block = some { spare := sp, state := .pending prior mark } →
        exec .copyProgramAnswer s = .next (State.arbitrate { s0 with
          xlat := { s.xlat with remap := tableSet s.xlat.remap x.block { spare := sp, state := .pending prior true } }
          reloc := { s.reloc with
            stepOut := false, engine := .commitWait, record := some { x with buffer := none, purpose := some .switch } }
          posted := s0.posted ++ [.commitRequest .engine] })) ∧
      (d.answer = .program .fail → x.attempt < 3 →
        ∀ e u, tableGet s.xlat.remap x.block = some e →
          spareToAllocate { s.xlat with spares := tableSet s.xlat.spares sp .retired } = some u →
        let spares := tableSet (tableSet s.xlat.spares sp .retired) u .pending
        let counters := countRetired (countProgramFailure s.health.counters)
        exec .copyProgramAnswer s = .next (State.arbitrate { s0 with
          xlat := { s.xlat with spares := spares, remap := tableSet s.xlat.remap x.block { e with spare := u } }
          health := { s.health with counters := counters }
          log := appendRecord s.log
            { kind := .spareRetired, block := some x.block, spare := some sp, value := counters.sparesRetired }
          posted := s0.posted ++ [.healthReport (.freeSpares (2048 - spares.length))]
          reloc := { s.reloc with
            stepOut := false
            record := some
              { x with spare := some u, attempt := x.attempt + 1, cursor := 0, poisoned := 0, buffer := none } } })) ∧
      (d.answer = .program .fail →
        x.attempt = 3 ∨ spareToAllocate { s.xlat with spares := tableSet s.xlat.spares sp .retired } = none →
        let counters := countRetired (countProgramFailure s.health.counters)
        exec .copyProgramAnswer s = .next (State.arbitrate (State.settle (State.abandon { s0 with
          xlat := dropPending { s.xlat with spares := tableSet s.xlat.spares sp .retired } x.block
          health := { s.health with counters := counters }
          log := appendRecord s.log
            { kind := .spareRetired, block := some x.block, spare := some sp, value := counters.sparesRetired }
          reloc := { s.reloc with stepOut := false } } x (if x.attempt < 3 then 2 else 3)))))

/-- An allocation takes the FREE spare of lowest index, and is refused while a spare is PENDING or none is FREE (R32). -/
def Obligations.AllocationTakesTheLowestFreeSpare : Prop :=
  ∀ (x : Xlat) (i : Nat), tableSorted x.spares = true → (∀ e ∈ x.spares, e.2 ≠ .free) →
    (spareToAllocate x = some i ↔
      i < 2048 ∧ spareState x i = .free ∧ (∀ j, j < i → spareState x j ≠ .free) ∧ ∀ j, spareState x j ≠ .pending)

/-- An abandonment (R117 to R119): without src_failed the block stays and the engine returns to IDLE; with it the block is added to the lost
list in the same happening (log 6) and the engine waits for the commit, its record without spare and line buffer (log 27). -/
def Obligations.AbandonmentKeepsOrGivesUpTheBlock : Prop :=
  ∀ (s : State) (x : RelocRecord) (reason : Nat),
    let logged := appendRecord s.log
      { kind := .relocAbandoned, block := some x.block, cause := some x.cause, value := reason }
    let failed := x.srcFailed = true ∨ ∃ e ∈ s.staging.entries, e.line / 64 = x.block ∧ e.hold = .srcFailed
    (¬ failed →
      s.abandon x reason = State.callEngine { s with
        xlat := dropPending s.xlat x.block
        log := logged
        staging := { s.staging with
          migrating := none
          entries := s.staging.entries.map fun e =>
            if e.line / 64 = x.block ∧ e.hold = .migrating then { e with hold := .none } else e }
        posted := if x.byManagement then s.posted ++ [.longCommandEnding .relocateBlock .abandoned 0] else s.posted
        reloc := { s.reloc with engine := .idle, record := none, stepOut := false } }) ∧
    (failed →
      s.abandon x reason = State.addLost { s with
        xlat := dropPending s.xlat x.block
        log := logged
        staging := { s.staging with migrating := none }
        reloc := { s.reloc with
          engine := .commitWait
          stepOut := false
          record := some { x with spare := none, buffer := none, srcFailed := true, purpose := some .lost } } } x.block .engine)

/-! ## Commit unit, start-up loader, patrol scanner -/

/-- A commit request (R131, R132). A capture serves the requests that were handed over before it (log 22). -/
def Obligations.CommitRequestCapturesOrFollowsUp : Prop :=
  ∀ (p : CommitParty) (s : State), s.inReset = false →
    let s0 := s.without (.commitRequest p)
    let others := s.commit.waiters.filter fun w => decide (w.party ≠ p)
    (s.commit.stopped = true → exec (.commitRequest p) s = .next s0) ∧
    (s.commit.stopped = false → s.commit.writing = none →
      let target := targetCopy s.commit
      let image : FieldImage :=
        { formatOk := true, checkOk := true, sequence := s.commit.lastSeq + 1,
          otherCopy := match target with
            | .a => s.commit.copyB
            | .b => s.commit.copyA,
          config := s.commit.config, elp := s.xlat.elp, remap := renderedRemap s.xlat, spares := renderedSpares s.xlat,
          lost := s.xlat.lost, counters := s.health.counters }
      let joined := (s0.posted.filterMap requestParty).foldl
        (fun ws q => ws.filter (fun w : Waiter => decide (w.party ≠ q)) ++ [{ party := q, current := true }])
        (others ++ [({ party := p, current := true } : Waiter)])
      exec (.commitRequest p) s = .next (State.arbitrate { s0 with
        posted := s0.posted.filter fun c => (requestParty c).isNone
        commit := { s.commit with
          lastSeq := s.commit.lastSeq + 1
          writing := some { target := target, step := 0, image := image, switch := renderedSwitch s.xlat }
          followUp := false
          waiters := joined.map fun w => { w with current := true } } })) ∧
    (s.commit.stopped = false → s.commit.writing ≠ none →
      exec (.commitRequest p) s = .next { s0 with
        commit := { s.commit with followUp := true, waiters := others ++ [({ party := p, current := false } : Waiter)] } })

/-- The target copy of a capture; a stopped unit takes a request and captures nothing. -/
def Obligations.TargetCopyOfACapture : Prop :=
  (∀ c : CommitUnit,
    (∀ h, c.holder = some h → copyState c (otherCopy h) = .ok → targetCopy c = otherCopy h ∧ targetCopy c ≠ h) ∧
    (∀ h, c.holder = some h → copyState c (otherCopy h) = .failed → targetCopy c = h) ∧
    (c.holder = none → c.copyA = .ok → targetCopy c = .a) ∧
    (c.holder = none → c.copyA = .failed → targetCopy c = .b)) ∧
  ∀ (p : CommitParty) (s : State), s.inReset = false → s.commit.stopped = false → s.commit.writing = none →
    ∃ t w, exec (.commitRequest p) s = .next t ∧ t.commit.writing = some w ∧ w.target = targetCopy s.commit

/-- The rendering of the remap table and the spare table, whose one PENDING entry stands between the others (Table 2-3). -/
def Obligations.RenderingOfThePendingEntry : Prop :=
  ∀ (x : Xlat) (before after : List (Nat × RemapEntry)) (block sp : Nat) (prior : Option Nat) (mark : Bool),
    x.remap = before ++ (block, ({ spare := sp, state := .pending prior mark } : RemapEntry)) :: after →
    (∀ e ∈ before ++ after, e.2.state = .inUse) →
    let plain := List.map fun e : Nat × RemapEntry => (e.1, e.2.spare)
    renderedRemap x = plain before ++
      (if mark then [(block, sp)] else prior.toList.map fun t => (block, t)) ++ plain after ∧
    (∀ i, (tableGet (renderedSpares x) i).getD .free =
      if mark then
        if prior = some i then .retired else if i = sp then .inUse else spareState x i
      else if i = sp then .free else spareState x i) ∧
    renderedSwitch x = if mark then some block else none

/-- The end of a commit program (R134 to R138), and the release of each waiter (Table 7-3). A stopped unit, and one in FAILED, takes
the answer without effect (log 16). -/
def Obligations.CommitProgramStepsCompletesOrMoves : Prop :=
  (∀ (s : State) (d : Delivery), s.deliveredFor .commitProgramAnswer = some d →
    let s0 := s.withoutDelivery d .commitProgramAnswer
    (s.commit.stopped = true ∨ s.health.state = .failed → exec .commitProgramAnswer s =
      .next (State.arbitrate { s0 with commit := { s.commit with progOut := false } })) ∧
    ∀ w : Writing, s.commit.stopped = false → s.health.state ≠ .failed → s.commit.writing = some w →
      let ended : State := { s0 with
        commit := { s.commit with
          progOut := false
          newestSeq := w.image.sequence
          holder := some w.target
          writing := none
          waiters := s.commit.waiters.filter fun x => !x.current } }
      (d.answer = .program .done → w.step < 447 →
        exec .commitProgramAnswer s = .next (State.arbitrate { s0 with
          commit := { s.commit with progOut := false, writing := some { w with step := w.step + 1 } } })) ∧
      (d.answer = .program .done → w.step = 447 →
        let completes (u : State) : Prop := exec .commitProgramAnswer s = .next (State.arbitrate (
          let v := (s.commit.waiters.filter fun x => x.current).foldl (fun v x => v.releaseWaiter w.switch x.party) u
          if s.commit.followUp = true then v.capture.settle else v.settle))
        (w.switch = none → completes ended) ∧
        (∀ block sp prior mark, w.switch = some block →
          tableGet s.xlat.remap block = some { spare := sp, state := .pending prior mark } →
          let switched : Xlat := { s.xlat with
            remap := tableSet s.xlat.remap block { spare := sp, state := .inUse }
            spares := tableSet s.xlat.spares sp .inUse }
          (prior = none → completes { ended with xlat := switched }) ∧
          (∀ t, prior = some t →
            let counters := countRetired s.health.counters
            completes { ended with
              xlat := { switched with spares := tableSet switched.spares t .retired }
              health := { s.health with counters := counters }
              log := appendRecord s.log
                { kind := .spareRetired, block := some block, spare := some t, value := counters.sparesRetired } })) ∧
        (s.host.channel = [] → w.switch = none → (∀ x ∈ s.commit.waiters, x.current = false) →
          (s.commit.followUp = false → exec .commitProgramAnswer s = .next (State.arbitrate ended)) ∧
          (s.commit.followUp = true → exec .commitProgramAnswer s = .next (State.arbitrate (State.capture ended)))) ∧
        (s.host.channel = [] → w.switch = none → s.commit.followUp = false →
          s.commit.waiters = [{ party := .link, current := true }] →
          ∀ code, s.pendingLong = some code → code = .setLimit ∨ code = .setConfig →
            exec .commitProgramAnswer s = .next (State.arbitrate
              { ended with posted := s0.posted ++ [.longCommandEnding code .ok 0] }))) ∧
      (d.answer = .program .fail →
        let c := setCopy s.commit w.target .failed
        let line : Nat := if w.step < 447 then w.step + 1 else 0
        let block : Nat := (match w.target with
          | .a => 2
          | .b => 9) + line / 64
        let failed : State := { s0 with
          health := { s.health with counters := countProgramFailure s.health.counters }
          log := appendRecord s.log
            { kind := .metadataCopyFailed, line := some (line % 64), value := block }
          posted := s0.posted ++ [.healthReport (.copyStates c.copyA c.copyB)] }
        (copyState s.commit (otherCopy w.target) = .ok →
          exec .commitProgramAnswer s = .next (State.arbitrate { failed with
            commit := { c with
              progOut := false
              lastSeq := s.commit.lastSeq + 1
              writing := some { w with
                target := otherCopy w.target
                step := 0
                image := { w.image with sequence := s.commit.lastSeq + 1, otherCopy := .failed } } } })) ∧
        (copyState s.commit (otherCopy w.target) = .failed →
          let stopped : State := { failed with commit := { c with progOut := false, stopped := true } }
          let waits (r : LongRecord) : Prop := r.ended = none ∧ (r.code = .setLimit ∨ r.code = .setConfig) ∧
            ∀ result spare, Instr.longCommandEnding r.code result spare ∉ s.posted
          ((∀ r, s.link.long = some r → ¬ waits r) → exec .commitProgramAnswer s = .next (State.arbitrate stopped)) ∧
          (∀ r, s.link.long = some r → waits r → exec .commitProgramAnswer s = .next (State.arbitrate { stopped with
            link := { s.link with long := some { r with ended := some .failed, spare := 0 } } }))))) ∧
  ∀ (u : State) (switch : Option Nat),
    u.releaseWaiter switch .queue = u ∧
    (u.loader.state = .loadingField → u.releaseWaiter switch .loader = u.enterResult false) ∧
    (u.loader.state ≠ .loadingField → u.releaseWaiter switch .loader = u) ∧
    (∀ code, u.pendingLong = some code → code = .setLimit ∨ code = .setConfig →
      u.releaseWaiter switch .link = { u with posted := u.posted ++ [.longCommandEnding code .ok 0] }) ∧
    (u.pendingLong ≠ some .setLimit → u.pendingLong ≠ some .setConfig → u.releaseWaiter switch .link = u) ∧
    ∀ x, u.reloc.failed = false → u.health.state ≠ .failed → u.reloc.engine = .commitWait → u.reloc.record = some x →
      (x.purpose = some .switch → switch = some x.block → u.releaseWaiter switch .engine = { u with
        reloc := { u.reloc with engine := .release, record := some { x with purpose := none } }
        posted := u.posted ++ [.relocationRelease] }) ∧
      (x.purpose = some .lost → u.releaseWaiter switch .engine = { u with
        reloc := { u.reloc with engine := .idle, record := none, stepOut := false }
        posted := u.posted ++ (if x.byManagement then [.longCommandEnding .relocateBlock .lost 0] else []) ++
          (if u.reloc.urgent = [] ∧ u.reloc.normal = [] then [] else [.engineTakeHead]) })

/-- The start-up loader's reads (R140, R141, R143), and the checks of its records: `classed` says how the answer classes a field copy (R128).
The form of the list of spare states is log 28. -/
def Obligations.LoaderReadsTheCopies : Prop :=
  (∀ (s : State) (d : Delivery), s.deliveredFor .loaderReadAnswer = some d → s.host.channel = [] →
    s.loader.state = .loadingMfg ∨ s.loader.state = .loadingField →
    let s0 := s.withoutDelivery d .loaderReadAnswer
    let bad := d.answer.isUncorrectable = true ∨ d.answer.poison = true
    let next (l : Loader) : State := { s0 with loader := { l with readOut := false } }
    (s.loader.task = .m0 ∨ s.loader.task = .m1 → ¬ bad → s.loader.line < 63 →
      exec .loaderReadAnswer s = .next (State.arbitrate (next
        { s.loader with line := s.loader.line + 1, mfg := nextMfg s.loader d.answer.content }))) ∧
    (bad ∨ s.loader.line = 63 ∧ (∀ m, nextMfg s.loader d.answer.content = some m → mfgValid m = false) →
      (s.loader.task = .m0 →
        exec .loaderReadAnswer s = .next (State.arbitrate (next { s.loader with task := .m1, line := 0, mfg := none }))) ∧
      (s.loader.task = .m1 → exec .loaderReadAnswer s = .next (State.arbitrate ((next s.loader).enterResult true)))) ∧
    (s.loader.task = .m0 ∨ s.loader.task = .m1 → ¬ bad → s.loader.line = 63 →
      ∀ m, nextMfg s.loader d.answer.content = some m → mfgValid m = true →
        exec .loaderReadAnswer s = .next (State.arbitrate
          { next { s.loader with state := .loadingField, task := .fieldA, line := 0, image := none, classA := none } with
            xlat := { s.xlat with defects := m.defects, p := m.defects.length, nb := 260080 - m.defects.length } })) ∧
    let erased := s.loader.line = 0 ∧ d.answer.isErased = true
    (s.loader.task = .fieldA ∨ s.loader.task = .fieldB → ¬ bad → ¬ erased → s.loader.line < 447 →
      exec .loaderReadAnswer s = .next (State.arbitrate (next
        { s.loader with line := s.loader.line + 1, image := nextImage s.loader d.answer.content }))) ∧
    let whole := ¬ erased ∧ ¬ bad ∧ s.loader.line = 447
    let held := nextImage s.loader d.answer.content
    let classed (c : CopyClass) : Prop := match c with
      | .blank => erased
      | .invalid => ¬ erased ∧ (bad ∨ whole ∧ ∀ i, held = some i → imageValid s.xlat.nb i = false)
      | .valid i => whole ∧ held = some i ∧ imageValid s.xlat.nb i = true
    ∀ b, classed b →
      (s.loader.task = .fieldA → exec .loaderReadAnswer s = .next (State.arbitrate (next
        { s.loader with task := .fieldB, line := 0, image := none, classA := some b }))) ∧
      (s.loader.task = .fieldB → ∀ a, s.loader.classA = some a →
        let chooses (u : State) : Prop := exec .loaderReadAnswer s = .next (State.arbitrate u)
        match a, b with
        | .valid i, .valid j =>
          (j.sequence ≤ i.sequence → chooses (State.loadImage (next s.loader) .a i)) ∧
          (i.sequence < j.sequence → chooses (State.loadImage (next s.loader) .b j))
        | .valid i, _ => chooses (State.loadImage (next s.loader) .a i)
        | _, .valid j => chooses (State.loadImage (next s.loader) .b j)
        | .blank, .blank => chooses { next { s.loader with task := .firstStart } with
            staging := { s.staging with mode := .back, threshold := 16, ageTimer := 20 }
            watch := { s.watch with threshold := 8 }
            patrol := { s.patrol with enable := true, interval := 100 }
            xlat := { s.xlat with
              remap := [], spares := [], lost := [], elp := s.xlat.nb, el := s.xlat.nb, frozen := false }
            health := { s.health with counters := zeroCounters }
            commit := { s.commit with
              copyA := .ok, copyB := .ok, newestSeq := 0, lastSeq := 0, holder := none, config := Config.defaultSettings }
            posted := s0.posted ++ [.commitRequest .loader] }
        | _, _ => chooses ((next s.loader).enterResult true))) ∧
  (∀ r : MfgRecord, mfgValid r = true ↔
    r.formatOk = true ∧ r.checkOk = true ∧ r.defects.Pairwise (· < ·) ∧ (∀ d ∈ r.defects, 16 ≤ d ∧ d ≤ 260095) ∧
    r.defects.length ≤ 512 ∧ r.defects.length = r.count) ∧
  ∀ (nb : Nat) (i : FieldImage), imageValid nb i = true ↔
    (i.formatOk = true ∧ i.checkOk = true ∧ i.sequence ≠ 0) ∧
    (i.config.writeMode ≤ 1 ∧ 1 ≤ i.config.drainThreshold ∧ i.config.drainThreshold ≤ 63 ∧ 1 ≤ i.config.ageTimer ∧
      i.config.ageTimer ≤ 500 ∧ 1 ≤ i.config.corrThreshold ∧ i.config.corrThreshold ≤ 255 ∧ i.config.patrolEnable ≤ 1 ∧
      10 ≤ i.config.patrolInterval ∧ i.config.patrolInterval ≤ 10000) ∧
    (∀ n ∈ [i.counters.relocationsCompleted, i.counters.sparesRetired, i.counters.linesPoisoned, i.counters.uncorrectableSeen,
      i.counters.programFailuresSeen], n ≤ 4294967295) ∧
    (i.remap.length ≤ 2048 ∧ (i.remap.map fun e => e.1).Pairwise (· < ·) ∧ (∀ e ∈ i.remap, e.1 < nb ∧ e.2 < 2048) ∧
      (i.remap.map fun e => e.2).Nodup ∧ ∀ n, tableGet i.spares n = some .inUse ↔ n ∈ i.remap.map fun e => e.2) ∧
    ((i.spares.map fun e => e.1).Pairwise (· < ·) ∧ ∀ e ∈ i.spares, e.1 < 2048 ∧ e.2 ≠ .free ∧ e.2 ≠ .pending) ∧
    (i.lost.length ≤ 64 ∧ i.lost.Pairwise (· < ·) ∧ ∀ b ∈ i.lost, b < nb ∧ ∀ e ∈ i.remap, e.1 ≠ b)

/-- What a chosen image sets (R142, R36). Start-up ends (R144): the loader enters READY or FAILED, the health block takes the
result, the port leaves STARTING, and the patrol scanner, if it is then RUNNING, starts its timer. -/
def Obligations.ChosenImageIsLoadedAndOpensThePart : Prop :=
  (∀ (s : State) (copy : CopyId) (i : FieldImage),
    let elp := if i.elp = 0 ∨ s.xlat.nb < i.elp then s.xlat.nb else i.elp
    let loaded : State := { s with
      staging := { s.staging with
        mode := if i.config.writeMode = 0 then .back else .through
        threshold := i.config.drainThreshold
        ageTimer := i.config.ageTimer }
      watch := { s.watch with threshold := i.config.corrThreshold }
      patrol := { s.patrol with enable := decide (i.config.patrolEnable = 1), interval := i.config.patrolInterval }
      xlat := { s.xlat with
        remap := i.remap.map fun e => (e.1, { spare := e.2, state := .inUse })
        spares := i.spares, lost := i.lost, elp := elp, el := elp, frozen := false }
      health := { s.health with counters := i.counters }
      commit := { s.commit with
        copyA := if copy = .a then .ok else i.otherCopy
        copyB := if copy = .b then .ok else i.otherCopy
        newestSeq := i.sequence, lastSeq := i.sequence, holder := some copy, writing := none, followUp := false,
        config := i.config }
      log := if elp = i.elp then s.log else appendRecord s.log { kind := .limitChanged, value := elp } }
    s.loadImage copy i = loaded.enterResult false) ∧
  ∀ (s : State) (failed : Bool), s.host.channel = [] →
    let ended : State := { s with
      loader := { s.loader with state := if failed then .failed else .ready, readOut := false } }
    let told := ended.reportHealth
      (.startup failed (2048 - s.xlat.spares.length) s.xlat.lost.length s.commit.copyA s.commit.copyB)
    let opened : State := { told with
      host := if s.pins.linkReset then { s.host with ready := .inReset, channel := [] } else { s.host with ready := .opened } }
    s.enterResult failed = State.arbitrate
      (if told.health.state ≠ .failed ∧ failed = false ∧ s.patrol.enable = true ∧ s.patrol.control = .run then
        { opened with patrol := { s.patrol with timer := some s.patrol.interval } }
      else opened)

def Obligations.PatrolReadIsHandedOn : Prop :=
  ∀ (s : State) (d : Delivery) (r : PatrolRead), s.deliveredFor .patrolReadAnswer = some d →
    s.patrol.outstanding = some r →
    let s0 : State := { s.withoutDelivery d .patrolReadAnswer with patrol := { s.patrol with outstanding := none } }
    (s.health.state ≠ .failed → s.loader.state = .ready →
      exec .patrolReadAnswer s = .next (State.arbitrate { s0 with
        health := { s.health with counters := outcomeCounters s.health.counters d.answer }
        posted := if d.answer.isUncorrectable = true ∧ d.answer.poison = true then s0.posted
          else s0.posted ++ outcomeRequests r.block d.answer })) ∧
    (s.health.state = .failed → exec .patrolReadAnswer s = .next s0.arbitrate)

/-- AGE_DEADLINE_EXPIRY (R48); that the passing of a deadline is a command naming the entry is the model's choice (log 8), and so is that
an expiry without its entry changes nothing (log 3). -/
def Obligations.AgeDeadlineMakesTheEntryEligible : Prop :=
  ∀ (order : Nat) (s : State),
    ((∃ e ∈ s.staging.entries, e.order = order) →
      exec (.ageDeadlineExpiry order) s = .next (State.arbitrate { s with
        staging := { s.staging with
          entries := s.staging.entries.map fun e => if e.order = order then { e with agePassed := true } else e } }) ∧
      ∀ e ∈ s.staging.entries, e.order = order → eligible s.staging { e with agePassed := true } = true) ∧
    ((∀ e ∈ s.staging.entries, e.order ≠ order) → exec (.ageDeadlineExpiry order) s = .next s)

/-- An expiry (R147 to R149). A pass count at its highest value stays there (R146, log 21). -/
def Obligations.PatrolExpiryOffersAReadAndAdvances : Prop :=
  ∀ s : State,
    (s.patrolState ≠ .running → exec .patrolExpiry s = .next s) ∧
    (s.patrolState = .running → s.patrol.timer.isSome = true →
      let p := s.patrol
      let timed : Patrol := { p with timer := some p.interval }
      let count := if p.passCount < 4294967295 then p.passCount + 1 else p.passCount
      let offer (block line : Nat) : Option PatrolRead := some { block := block, line := line, issued := false }
      let pass (t : Patrol) : State := State.arbitrate { s with
        patrol := { t with passCount := count }
        log := appendRecord s.log { kind := .patrolPassDone, value := count }
        watch := if s.watch.failed = true then s.watch
          else { s.watch with
            entries := (s.watch.entries.map fun e => { e with count := e.count / 2 }).filter fun e => decide (0 < e.count) } }
      (p.outstanding.isSome = true → exec .patrolExpiry s = .next { s with patrol := timed }) ∧
      (p.outstanding = none → s.patrolSkips p.block = false →
        (p.line < 63 → exec .patrolExpiry s = .next (State.arbitrate { s with
          patrol := { timed with outstanding := offer p.block p.line, line := p.line + 1 } })) ∧
        (p.line = 63 → p.block + 1 < s.xlat.nb → exec .patrolExpiry s = .next (State.arbitrate { s with
          patrol := { timed with outstanding := offer p.block p.line, block := p.block + 1, line := 0 } })) ∧
        (p.line = 63 → p.block + 1 = s.xlat.nb → exec .patrolExpiry s =
          .next (pass { timed with outstanding := offer p.block p.line, block := 0, line := 0 }))) ∧
      (p.outstanding = none → ∀ k, 0 < k → (∀ i, i < k → s.patrolSkips (p.block + i) = true) → p.block + k < s.xlat.nb →
        s.patrolSkips (p.block + k) = false → exec .patrolExpiry s = .next (State.arbitrate { s with
          patrol := { timed with outstanding := offer (p.block + k) 0, block := p.block + k, line := 1 } })) ∧
      (p.outstanding = none → p.block < s.xlat.nb → (∀ b, p.block ≤ b → b < s.xlat.nb → s.patrolSkips b = true) →
        ∀ m, (∀ i, i < m → s.patrolSkips i = true) → m < s.xlat.nb → s.patrolSkips m = false → exec .patrolExpiry s =
          .next (pass { timed with outstanding := offer m 0, block := m, line := 1 })))

/-! ## Relocation and the error watch table -/

/-- The IDLE engine takes the head of the queue and prepares (R109, R110, R26, R54); without a spare it abandons (R117, reason 1). That a
program counts as in progress until the buffer has taken its answer is the model's choice (log 38). -/
def Obligations.EngineTakesTheHeadAndPrepares : Prop :=
  ∀ (s : State), s.inReset = false →
    let s0 := s.without .engineTakeHead
    (s.reloc.engine ≠ .idle ∨ s.health.state = .failed ∨ s.reloc.failed = true ∨
        s.reloc.urgent = [] ∧ s.reloc.normal = [] → exec .engineTakeHead s = .next s0) ∧
    ∀ (e : QueueEntry) (left : Reloc), s.reloc.engine = .idle → s.health.state ≠ .failed → s.reloc.failed = false →
      s.host.channel = [] →
      ((∃ u, s.reloc.urgent = e :: u ∧ left = { s.reloc with urgent := u }) ∨
        (s.reloc.urgent = [] ∧ ∃ n, s.reloc.normal = e :: n ∧ left = { s.reloc with normal := n })) →
      let held := decide (∃ f ∈ s.staging.entries, f.line / 64 = e.block ∧ f.hold = .srcFailed)
      let taken : RelocRecord :=
        { block := e.block, cause := e.cause, byManagement := e.byManagement, source := none, spare := none, attempt := 1,
          cursor := 0, buffer := none, poisoned := 0, srcFailed := held, purpose := none }
      let programs (f : Entry) : Prop :=
        f.state = .issued ∧ s.staging.drainOp = some { order := f.order, kind := .program }
      (∀ i, spareToAllocate s.xlat = some i →
        ∃ engine, (engine = .prepare ↔ ∃ f ∈ s.staging.entries, f.line / 64 = e.block ∧ programs f) ∧
          (engine ≠ .prepare → engine = .copy) ∧
          exec .engineTakeHead s = .next (State.arbitrate { s0 with
            xlat := { s.xlat with
              spares := tableSet s.xlat.spares i .pending
              remap := tableSet s.xlat.remap e.block
                { spare := i, state := .pending ((tableGet s.xlat.remap e.block).map fun r => r.spare) false } }
            staging := markMigrating s.staging e.block
            reloc := { left with
              engine := engine
              record := some { taken with
                source := some (match tableGet s.xlat.remap e.block with
                  | some r => 260096 + r.spare
                  | none => slipLocation s.xlat e.block)
                spare := some i } }
            posted := s0.posted ++ [.healthReport (.freeSpares (2048 - (tableSet s.xlat.spares i .pending).length))] })) ∧
      (spareToAllocate s.xlat = none →
        exec .engineTakeHead s = .next (State.settle (State.abandon { s0 with
          reloc := { left with record := some taken } } taken 1)))

/-- The mark at the staging buffer (R54), the end of PREPARE (R111), and the release after the commit (R116, R55). That a program counts as in
progress until the buffer has taken its answer is the model's choice (log 38). -/
def Obligations.MarkPrepareEndAndRelease : Prop :=
  (∀ (st : Staging) (block : Nat),
    (markMigrating st block).migrating = some block ∧
    (markMigrating st block).entries = st.entries.map fun f =>
      if f.line / 64 ≠ block ∨ f.hold = .srcFailed ∨
          f.state = .issued ∧ st.drainOp = some { order := f.order, kind := .program } then f
      else if f.state = .issued then
        { f with
          state := if f.epoch = st.epoch ∧ ∀ g ∈ st.entries, g.line = f.line → g.order = f.order then .opened else .sealed
          hold := .migrating
          merged := none }
      else { f with hold := .migrating }) ∧
  (∀ (s : State) (result : ProgramResult) (x : RelocRecord), s.inReset = false → s.reloc.engine = .prepare →
    s.reloc.failed = false → s.health.state ≠ .failed → s.reloc.record = some x →
    exec (.prepareEnd result) s = .next (State.arbitrate { s.without (.prepareEnd result) with
      reloc := { s.reloc with
        engine := .copy
        record := some { x with srcFailed := x.srcFailed || decide (result = .fail) } } })) ∧
  ∀ (s : State) (x : RelocRecord) (sp : Nat), s.inReset = false → s.reloc.engine = .release → s.reloc.failed = false →
    s.reloc.record = some x → x.spare = some sp → s.health.state ≠ .failed →
    exec .relocationRelease s = .next (State.arbitrate { s.without .relocationRelease with
      staging := { s.staging with
        entries := s.staging.entries.map fun f => if f.line / 64 = x.block then { f with hold := .none } else f
        migrating := none }
      log := appendRecord s.log
        { kind := .relocDone, block := some x.block, spare := some sp, cause := some x.cause, value := x.poisoned }
      health := { s.health with counters := countRelocation s.health.counters }
      reloc := { s.reloc with engine := .idle, record := none, stepOut := false }
      posted := (s.without .relocationRelease).posted ++
        (if x.byManagement then [.longCommandEnding .relocateBlock .relocated sp] else []) ++
        (if s.reloc.urgent = [] ∧ s.reloc.normal = [] then [] else [.engineTakeHead]) })

/-- A request whose block is neither lost nor being migrated joins the queue when there is room (R104, R105, R93, R109) or merges
into the block's entry (R103). The engine's taking of the head is a step of its own (log 7). -/
def Obligations.RequestsJoinOrMerge : Prop :=
  ∀ (block : Nat) (cause : RelocCause) (s : State), s.inReset = false → s.reloc.failed = false → s.health.state ≠ .failed →
    s.loader.state ≠ .loadingMfg → s.loader.state ≠ .loadingField → block < s.xlat.nb → block ∉ s.xlat.lost →
    (∀ x, s.reloc.record = some x → x.block ≠ block) → s.host.channel = [] →
    let s0 := s.without (.relocRequest block cause)
    let n := s.reloc.urgent.length + s.reloc.normal.length
    let urgent := cause = .programFail ∨ cause = .uncorrectable
    let fresh : QueueEntry := { block := block, cause := cause, byManagement := decide (cause = .management) }
    let merged (e : QueueEntry) : QueueEntry :=
      { e with
        cause := if causeStrength e.cause < causeStrength cause then cause else e.cause
        byManagement := e.byManagement || decide (cause = .management) }
    let queued (r : Reloc) (value : Nat) : State := { s0 with
      reloc := r
      log := appendRecord s.log { kind := .relocQueued, block := some block, cause := some cause, value := value } }
    ((∀ e ∈ s.reloc.urgent ++ s.reloc.normal, e.block ≠ block) → (urgent → n < 16) → (¬ urgent → n < 12) →
      exec (.relocRequest block cause) s = .next (State.arbitrate
        { queued (if urgent then { s.reloc with urgent := s.reloc.urgent ++ [fresh] }
            else { s.reloc with normal := s.reloc.normal ++ [fresh] }) (n + 1) with
          watch := if s.watch.failed = true then s.watch
            else { s.watch with entries := s.watch.entries.filter fun w => w.block != block }
          posted := s0.posted ++ if n = 0 ∧ s.reloc.engine = .idle then [.engineTakeHead] else [] })) ∧
    (∀ before e after, s.reloc.normal = before ++ e :: after → e.block = block →
      (∀ f ∈ s.reloc.urgent ++ before ++ after, f.block ≠ block) →
      (urgent → exec (.relocRequest block cause) s = .next (State.arbitrate
        (queued { s.reloc with normal := before ++ after, urgent := s.reloc.urgent ++ [merged e] } n))) ∧
      (¬ urgent → exec (.relocRequest block cause) s = .next (State.arbitrate { s0 with
        reloc := { s.reloc with normal := before ++ merged e :: after } }))) ∧
    (∀ before e after, s.reloc.urgent = before ++ e :: after → e.block = block →
      (∀ f ∈ before ++ after ++ s.reloc.normal, f.block ≠ block) →
      exec (.relocRequest block cause) s = .next (State.arbitrate { s0 with
        reloc := { s.reloc with urgent := before ++ merged e :: after } }))

/-- The requests that a check of R102 stops, and those a full queue turns away or makes room for (R104 to R106). That a request made
during start-up is dropped is log 3; that the queue consults the health state before its notice is log 16. -/
def Obligations.RequestsStoppedOrTurnedAway : Prop :=
  ∀ (block : Nat) (cause : RelocCause) (s : State), s.inReset = false → block < s.xlat.nb → s.host.channel = [] →
    let s0 := s.without (.relocRequest block cause)
    let management (r : LongResult) : List Instr :=
      if cause = .management then [.longCommandEnding .relocateBlock r 0] else []
    let dropped (reason : Nat) : State := { s0 with
      log := appendRecord s.log { kind := .relocDropped, block := some block, cause := some cause, value := reason } }
    let stopped := s.reloc.failed = true ∨ s.health.state = .failed ∨ s.loader.state = .loadingMfg ∨ s.loader.state = .loadingField
    (stopped → exec (.relocRequest block cause) s = .next s0.arbitrate) ∧
    (¬ stopped → block ∈ s.xlat.lost →
      exec (.relocRequest block cause) s = .next (State.arbitrate { s0 with posted := s0.posted ++ management .lost })) ∧
    (∀ x, ¬ stopped → block ∉ s.xlat.lost → s.reloc.record = some x → x.block = block →
      exec (.relocRequest block cause) s = .next (State.arbitrate (match cause with
        | .management => { s0 with reloc := { s.reloc with record := some { x with byManagement := true } } }
        | .programFail => { dropped 4 with reloc := { s.reloc with record := some { x with srcFailed := true } } }
        | .uncorrectable => dropped 4
        | .corrThreshold => dropped 4))) ∧
    (¬ stopped → block ∉ s.xlat.lost → (∀ x, s.reloc.record = some x → x.block ≠ block) →
      (∀ e ∈ s.reloc.urgent ++ s.reloc.normal, e.block ≠ block) →
      (cause = .corrThreshold ∨ cause = .management → 12 ≤ s.reloc.urgent.length + s.reloc.normal.length →
        exec (.relocRequest block cause) s = .next (State.arbitrate
          { dropped 1 with posted := s0.posted ++ management .refused })) ∧
      (cause = .programFail ∨ cause = .uncorrectable →
        (∀ rest e, s.reloc.normal = rest ++ [e] → s.reloc.urgent.length + s.reloc.normal.length = 16 →
          exec (.relocRequest block cause) s = .next (State.arbitrate { s0 with
            reloc := { s.reloc with
              normal := rest
              urgent := s.reloc.urgent ++ [{ block := block, cause := cause, byManagement := false }] }
            log := appendRecord
              (appendRecord s.log { kind := .relocDropped, block := some e.block, cause := some e.cause, value := 2 })
              { kind := .relocQueued, block := some block, cause := some cause, value := 16 }
            watch := if s.watch.failed = true then s.watch
              else { s.watch with entries := s.watch.entries.filter fun w => w.block != block }
            posted := s0.posted ++ if e.byManagement then [.longCommandEnding .relocateBlock .dropped 0] else [] })) ∧
        (s.reloc.normal = [] → s.reloc.urgent.length = 16 →
          exec (.relocRequest block cause) s = .next (State.arbitrate
            (if cause = .programFail then (dropped 3).addLost block .queue else dropped 3)))))

/-- A report (R90 to R93). That a report for a block at or above NB is dropped is the model's choice (log 3), and so is that a block counts as
being migrated for as long as the in-flight record names it (log 39). -/
def Obligations.WatchReportsCountInsertAndRequest : Prop :=
  ∀ (block bits : Nat) (s : State), s.inReset = false → 1 ≤ bits → bits ≤ 4 →
    let s0 := s.without (.watchReport block bits)
    let requested (kept : List WatchEntry) : State := { s0 with
      watch := { s.watch with entries := kept }
      posted := s0.posted ++ [.relocRequest block .corrThreshold] }
    let drops := s.watch.failed = true ∨ s.xlat.nb ≤ block ∨ block ∈ s.xlat.lost ∨
      (∃ e ∈ s.reloc.urgent ++ s.reloc.normal, e.block = block) ∨ ∃ x, s.reloc.record = some x ∧ x.block = block
    (drops → exec (.watchReport block bits) s = .next s0) ∧
    (¬ drops →
      (∀ before e after, s.watch.entries = before ++ e :: after → e.block = block →
        (∀ f ∈ before ++ after, f.block ≠ block) → e.count ≤ 255 →
        let count := min (e.count + 1) 255
        (s.watch.threshold ≤ count → exec (.watchReport block bits) s = .next (requested (before ++ after))) ∧
        (count < s.watch.threshold → exec (.watchReport block bits) s = .next { s0 with
          watch := { s.watch with entries := { block := block, count := count, lastBits := bits } :: (before ++ after) } })) ∧
      ((∀ e ∈ s.watch.entries, e.block ≠ block) →
        (s.watch.threshold ≤ 1 → exec (.watchReport block bits) s = .next (requested s.watch.entries)) ∧
        (1 < s.watch.threshold → s.watch.entries.length < 32 → exec (.watchReport block bits) s = .next { s0 with
          watch := { s.watch with entries := { block := block, count := 1, lastBits := bits } :: s.watch.entries } }) ∧
        (1 < s.watch.threshold → WatchFits s.watch → ∀ before v after, s.watch.entries = before ++ v :: after →
          s.watch.entries.length = 32 → (∀ f ∈ before, v.count ≤ f.count) → (∀ f ∈ after, v.count < f.count) →
          exec (.watchReport block bits) s = .next { s0 with
            watch := { s.watch with
              entries := { block := block, count := 1, lastBits := bits } :: (before ++ after) } })))

/-- A block is added to the lost list (R34, R35), and its entries are discarded (R61). That the addition of a listed block, of one the
part does not have, and of one queued or being migrated does nothing is the model's choice (log 37). -/
def Obligations.LostBlockAdditionAndItsDiscard : Prop :=
  (∀ (block : Nat) (requester : LostRequester) (s : State), s.inReset = false →
    let s0 := s.without (.lostBlockAddition block requester)
    let taken := block < s.xlat.nb ∧ (∀ e ∈ s.reloc.urgent ++ s.reloc.normal, e.block ≠ block) ∧
      ∀ x, s.reloc.record = some x → x.block ≠ block
    (¬ taken → exec (.lostBlockAddition block requester) s = .next s0) ∧
    (taken → s.host.channel = [] → block ∈ s.xlat.lost ∨ s.health.state = .failed →
      exec (.lostBlockAddition block requester) s = .next s0.arbitrate) ∧
    (taken → s.host.channel = [] → block ∉ s.xlat.lost → s.health.state ≠ .failed → 64 ≤ s.xlat.lost.length →
      exec (.lostBlockAddition block requester) s =
        .next (State.arbitrate { s0 with posted := s0.posted ++ [.healthReport .lostOverflow] })) ∧
    (taken → s.host.channel = [] → block ∉ s.xlat.lost → s.xlat.lost.length < 64 → s.health.state ≠ .failed →
      ∀ (x : Xlat) (retired : Option Nat),
      (tableGet s.xlat.remap block = none ∧ x = s.xlat ∧ retired = none ∨
        ∃ sp, tableGet s.xlat.remap block = some { spare := sp, state := .inUse } ∧ retired = some sp ∧
          x = { s.xlat with
            remap := tableErase s.xlat.remap block, spares := tableSet s.xlat.spares sp .retired }) →
      let counters := if retired.isSome then countRetired s.health.counters else s.health.counters
      let d : State := State.discardBlock { s0 with
        xlat := { x with lost := insertRising s.xlat.lost block }
        health := { s.health with counters := counters }
        log := match retired with
          | some sp => appendRecord s.log
              { kind := .spareRetired, block := some block, spare := some sp, value := counters.sparesRetired }
          | none => s.log
        patrol := withdrawPatrol s.patrol block
        watch := if s.watch.failed = true then s.watch
          else { s.watch with entries := s.watch.entries.filter fun w => w.block != block } } block
      exec (.lostBlockAddition block requester) s = .next (State.settle { d with
        log := appendRecord d.log { kind := .blockLost, block := some block, value := (insertRising s.xlat.lost block).length }
        posted := d.posted ++ [.commitRequest (lostParty requester),
          .healthReport (.lostLength (insertRising s.xlat.lost block).length)] }))) ∧
  ∀ (s : State) (block : Nat),
    let gone := s.staging.entries.filter fun e => decide (e.line / 64 = block)
    let flagged (closed : Nat) (flag : Bool) : Bool := flag || gone.any fun e => decide (e.epoch ≤ closed)
    ∃ order : List Entry, order.Perm gone ∧ s.discardBlock block = State.examineBarriers { s with
      staging := { s.staging with
        entries := s.staging.entries.filter fun e => decide (e.line / 64 ≠ block)
        hostSlots := s.staging.hostSlots.map fun r => { r with failFlag := flagged r.epoch r.failFlag }
        flushSlot := s.staging.flushSlot.map fun r => { r with failFlag := flagged r.epoch r.failFlag } }
      host := { s.host with
        responses := s.host.responses ++ order.flatMap fun e => e.tags.map fun t => Response.writeAck t .mediaFail
        writeTags := (order.flatMap fun e => e.tags).foldl tableErase s.host.writeTags }
      log := if gone = [] then s.log
        else appendRecord s.log { kind := .dataDiscarded, block := some block, value := gone.length }
      freeCount := s.freeCount + gone.length }

/-! ## Health block and event log -/

/-- A report at the health block (R156 to R158, Table 9-1), and what raising each of its five counters does (R160): the counter rises by one,
stays at 4,294,967,295, and the others stay; of the outcomes of a read UNCORRECTABLE alone is counted. -/
def Obligations.HealthReportTakesTheHigherState : Prop :=
  (∀ c : Counters,
    let up (n : Nat) : Nat := if n < 4294967295 then n + 1 else n
    countRelocation c = { c with relocationsCompleted := up c.relocationsCompleted } ∧
    countRetired c = { c with sparesRetired := up c.sparesRetired } ∧
    countPoisoned c = { c with linesPoisoned := up c.linesPoisoned } ∧
    countUncorrectable c = { c with uncorrectableSeen := up c.uncorrectableSeen } ∧
    countProgramFailure c = { c with programFailuresSeen := up c.programFailuresSeen } ∧
    (∀ poison, outcomeCounters c (.uncorrectable poison) = { c with uncorrectableSeen := up c.uncorrectableSeen }) ∧
    (∀ line poison, outcomeCounters c (.clean line poison) = c) ∧
    (∀ bits line poison, outcomeCounters c (.corrected bits line poison) = c)) ∧
  ∀ (input : HealthInput) (s : State), s.inReset = false →
    let s0 := s.without (.healthReport input)
    let h : HealthBlock := match input with
      | .freeSpares n => { s.health with free := n }
      | .lostLength n => { s.health with lost := n }
      | .lostOverflow => { s.health with overflow := true }
      | .copyStates a b => { s.health with copyA := a, copyB := b }
      | .startup failed free lost a b =>
        { s.health with startup := some failed, free := free, lost := lost, copyA := a, copyB := b }
    let derived : Nat :=
      if h.copyA = .failed ∧ h.copyB = .failed ∨ h.overflow = true ∨ h.startup = some true then 3
      else if h.free = 0 ∨ h.lost ≠ 0 ∨ h.copyA = .failed ∨ h.copyB = .failed then 2
      else if h.free ≤ 128 then 1
      else 0
    ∃ new : Health, healthCode new = max (healthCode s.health.state) derived ∧
      (new = s.health.state → exec (.healthReport input) s = .next { s0 with health := h }) ∧
      (new ≠ s.health.state → exec (.healthReport input) s = .next { s0 with
        health := { h with state := new }
        log := appendRecord s.log { kind := .healthChanged, value := healthCode new }
        posted := s0.posted ++
          if new = .failed then [.stagingFailedDiscard, .hostPortFailed, .watchTableFailed, .relocationFailed, .commitUnitStop,
            .patrolHalt, .loaderFailedNotice]
          else [] })

/-- A record is appended (R162, R163, R166); the link takes an ending (R173, R174). -/
def Obligations.EventsAreAppendedAndEndingsTaken : Prop :=
  (∀ (body : EventBody) (s : State), s.inReset = false → (∀ b, body.block = some b → b < 260080) →
    (∀ i, body.spare = some i → i < 2048) → (∀ l, body.line = some l → l < 64) → body.value < 4294967296 →
    exec (.eventAppend body) s = .next { s.without (.eventAppend body) with
      log :=
        { records := (if s.log.records.length < 32 then s.log.records else s.log.records.drop 1) ++
            [{ sequence := s.log.next, body := body }]
          next := (s.log.next + 1) % 4294967296
          alert := s.log.alert || decide (body.kind ∈ [EventKind.relocAbandoned, .blockLost, .dataDiscarded,
            .metadataCopyFailed, .healthChanged, .mediaTimeout]) } }) ∧
  ∀ (code : LongCode) (result : LongResult) (spare : Nat) (s : State), s.inReset = false →
    let s0 := s.without (.longCommandEnding code result spare)
    (∀ r, s.link.long = some r → r.code = code → r.ended = none →
      exec (.longCommandEnding code result spare) s =
        .next { s0 with link := { s.link with long := some { r with ended := some result, spare := spare } } }) ∧
    ((∀ r, s.link.long = some r → r.code ≠ code ∨ r.ended ≠ none) →
      exec (.longCommandEnding code result spare) s = .next s0)

/-- The FAILED notices at each block (R62, R86, R98, R123, R138, R154, R143). A command whose ending is handed to the link and not yet
taken waits on no block any longer. -/
def Obligations.FailedNoticesStopEveryBlock : Prop :=
  ∀ (s : State), s.inReset = false → s.host.channel = [] →
    (∃ (entries : List Entry) (records : List BarrierRecord), entries.Perm s.staging.entries ∧ records.Perm s.staging.hostSlots ∧
      exec .stagingFailedDiscard s = .next (State.arbitrate { s.without .stagingFailedDiscard with
        staging := { s.staging with entries := [], hostSlots := [], flushSlot := none }
        host := { s.host with
          responses := s.host.responses ++ (entries.flatMap fun e => e.tags.map fun t => Response.writeAck t .mediaFail) ++
            records.map fun r => Response.barrierDone r.tag .fail
          writeTags := (entries.flatMap fun e => e.tags).foldl tableErase s.host.writeTags
          barrierTags := (records.map fun r => r.tag).foldl tableErase s.host.barrierTags }
        log := if s.staging.entries = [] then s.log
          else appendRecord s.log { kind := .dataDiscarded, value := s.staging.entries.length }
        posted := (s.without .stagingFailedDiscard).posted ++
          if s.staging.flushSlot.isSome then [.longCommandEnding .flush .dataLost 0] else []
        freeCount := s.freeCount + s.staging.entries.length + s.staging.hostSlots.length })) ∧
    (∃ fences : List (Nat × Nat),
      let queued := s.host.queue.filter fun r => !r.issued
      (∀ line, fenceCount { s.staging with fences := fences } line =
        fenceCount s.staging line - (queued.filter fun r => decide (r.addr = line)).length) ∧
      exec .hostPortFailed s = .next (State.arbitrate { s.without .hostPortFailed with
        staging := { s.staging with fences := fences }
        host := { s.host with
          queue := s.host.queue.filter fun r => r.issued
          responses := s.host.responses ++ queued.map fun r => Response.readResult r.tag .poison
          readTags := (queued.map fun r => r.tag).foldl tableErase s.host.readTags } })) ∧
    exec .watchTableFailed s = .next { s.without .watchTableFailed with watch := { s.watch with failed := true } } ∧
    ((∀ r, s.link.long = some r → r.ended ≠ none) →
      exec .relocationFailed s =
        .next { s.without .relocationFailed with reloc := { s.reloc with failed := true } } ∧
      exec .commitUnitStop s =
        .next { s.without .commitUnitStop with commit := { s.commit with stopped := true } }) ∧
    (∀ r, s.link.long = some r → r.ended = none →
      let waits (codes : List LongCode) : Prop :=
        r.code ∈ codes ∧ ∀ result spare, Instr.longCommandEnding r.code result spare ∉ s.posted
      let ended : Link := { s.link with long := some { r with ended := some .failed, spare := 0 } }
      let relocFailed : State := { s.without .relocationFailed with reloc := { s.reloc with failed := true } }
      let commitStopped : State := { s.without .commitUnitStop with commit := { s.commit with stopped := true } }
      (waits [.relocateBlock] → exec .relocationFailed s = .next { relocFailed with link := ended }) ∧
      (¬ waits [.relocateBlock] → exec .relocationFailed s = .next relocFailed) ∧
      (waits [.setLimit, .setConfig] → exec .commitUnitStop s = .next { commitStopped with link := ended }) ∧
      (¬ waits [.setLimit, .setConfig] → exec .commitUnitStop s = .next commitStopped)) ∧
    exec .patrolHalt s = .next { s.without .patrolHalt with
      patrol := { s.patrol with timer := none, outstanding := s.patrol.outstanding.filter fun r => r.issued } } ∧
    (s.loader.state = .loadingField →
      exec .loaderFailedNotice s = .next ((s.without .loaderFailedNotice).enterResult true)) ∧
    (s.loader.state ≠ .loadingField → exec .loaderFailedNotice s = .next (s.without .loaderFailedNotice))

/-! ## Management link -/

/-- A frame at the link (R168 to R171, R185, Table 10-1): the codes, lengths and statuses of section 10.7, the check byte and the form of a
response (Table 10-6), the transactions, the reset, and the checks. That SET_CONFIG and PATROL_CONTROL have a row for each item and action is
the table's (log 19). -/
def Obligations.FramesPassTheChecksOfTheLink : Prop :=
  let damaged (frame : List Byte) : Prop :=
    frame.length < 4 ∨ 32 < (frame.getD 2 0).toNat ∨ frame.length ≠ (frame.getD 2 0).toNat + 4 ∨
      frame.getLast? ≠ some (crc8 frame.dropLast)
  let known : List Byte := [1, 2, 3, 4, 5, 6, 7, 8, 9, 10, 16, 17, 18, 19, 32, 33]
  let shift (c : Byte) : Byte := if c.getLsbD 7 then (c <<< 1) ^^^ 7#8 else c <<< 1
  (crc8 [] = 0 ∧ ∀ bytes b, crc8 (bytes ++ [b]) = shift^[8] (crc8 bytes ^^^ b)) ∧
  [MgmtCode.getStatus, .getResult, .getConfig, .readLog, .readRemap, .readLost, .readWatch, .readQueue, .ackAlert, .abort, .setConfig,
      .setLimit, .freezeLimit, .patrolControl, .flush, .relocateBlock].map (fun c => ((codeByte c).toNat, paramLength c)) =
    [(1, 0), (2, 0), (3, 0), (4, 4), (5, 2), (6, 1), (7, 1), (8, 0), (9, 0), (10, 0), (16, 4), (17, 4), (18, 0), (19, 1), (32, 0), (33, 3)] ∧
  [FrameStatus.ok, .pending, .busy, .badCheck, .badCmd, .badParam, .frozen, .refused, .notReady, .failed, .noResponse].map statusByte =
    [0, 1, 2, 3, 4, 5, 6, 7, 8, 9, 10] ∧
  (∀ (status : FrameStatus) (seq : Byte) (payload : List Byte),
    let bytes := statusByte status :: seq :: BitVec.ofNat 8 payload.length :: payload
    responseFrame status seq payload = bytes ++ [crc8 bytes]) ∧
  (∀ (seq : Byte) (params : List Byte),
    [1, 2, 3, 4, 5, 6, 7, 8, 9, 10, 17, 18, 32, 33].map (fun code => frameRow code seq params) =
      [.getStatus seq params, .getResult seq params, .getConfig seq params, .readLog seq params, .readRemap seq params,
        .readLost seq params, .readWatch seq params, .readQueue seq params, .ackAlert seq params, .abort seq params,
        .setLimit seq params, .freezeLimit seq params, .flush seq params, .relocateBlock seq params] ∧
    frameRow 16 seq params ∈ [.setWriteMode seq params, .setDrainThreshold seq params, .setEntryAgeTimer seq params,
      .setCorrectionThreshold seq params, .setPatrolEnable seq params, .setPatrolInterval seq params] ∧
    frameRow 19 seq params ∈ [.patrolStop seq params, .patrolStart seq params, .patrolRestart seq params] ∧
    ∀ code, code ∉ known → frameRow code seq params = .unknownCommand code seq params) ∧
  (∀ (s : State) (address : Nat),
    let heard := s.inReset = false ∧ address = 88 + s.pins.strap.val
    (heard →
      (∀ n, ∃ bytes, s.readTransaction address n = some bytes ∧ bytes.length = n ∧ ∀ i, i < n →
        bytes.getD i 0 = (match s.link.readable with
          | .none => responseFrame .noResponse 0 []
          | .cached => s.link.cached
          | .badCheck echo => responseFrame .badCheck echo []).getD i 255) ∧
      s.writeTransaction address [] = none ∧
      ∀ frame, frame ≠ [] →
        (damaged frame → s.writeTransaction address frame = some (.damagedFrame frame)) ∧
        (¬ damaged frame → s.writeTransaction address frame =
          some (frameRow (frame.getD 0 0) (frame.getD 1 0) ((frame.drop 3).dropLast)))) ∧
    (¬ heard → (∀ n, s.readTransaction address n = none) ∧ ∀ frame, s.writeTransaction address frame = none)) ∧
  (∀ (s : State), s.inReset = true →
    (∀ code seq params, exec (frameRow code seq params) s = .next s) ∧ ∀ frame, exec (.damagedFrame frame) s = .next s) ∧
  ∀ (s : State), s.inReset = false →
    (∀ frame, frame ≠ [] → damaged frame →
      exec (.damagedFrame frame) s = .next { s with link := { s.link with readable := .badCheck (frame.getD 1 0) } }) ∧
    (∀ code seq params, s.link.lastSeq = some seq →
      exec (frameRow code seq params) s = .next { s with link := { s.link with readable := .cached } }) ∧
    ∀ (seq : Byte), s.link.lastSeq ≠ some seq →
      (∀ code params, code ∉ known →
        exec (.unknownCommand code seq params) s = .next (s.answered seq .badCmd [])) ∧
      ∀ (c : MgmtCode) (params : List Byte),
        let answers (status : FrameStatus) : Prop :=
          exec (frameRow (codeByte c) seq params) s = .next (s.answered seq status [])
        let loading := (s.loader.state = .loadingMfg ∨ s.loader.state = .loadingField) ∧ c ≠ .getStatus
        let refused := s.health.state = .failed ∧
          c ∈ [MgmtCode.abort, .setConfig, .setLimit, .freezeLimit, .patrolControl, .flush, .relocateBlock]
        (params.length ≠ paramLength c → answers .badParam) ∧
        (params.length = paramLength c → loading → answers .notReady) ∧
        (params.length = paramLength c → ¬ loading → refused → answers .failed) ∧
        (params.length = paramLength c → ¬ loading → ¬ refused → s.pendingLong ≠ none →
          c ∈ [MgmtCode.flush, .relocateBlock, .setLimit, .setConfig, .patrolControl] → answers .busy)

/-- The inspection commands (R164, R172, R175 to R177): their payloads, field by field, of the widths of Tables 10-7 to 10-10, and the numbers
that section 10.7 gives each state, result, cause and kind. -/
def Obligations.InspectionCommandsReportTheState : Prop :=
  [StartupState.loadingMfg, .loadingField, .ready, .failed].map startupCode = [0, 1, 2, 3] ∧
  [Health.normal, .lowSpares, .degraded, .failed].map healthCode = [0, 1, 2, 3] ∧
  [EngineState.idle, .prepare, .copy, .commitWait, .release].map engineCode = [0, 1, 2, 3, 4] ∧
  [PatrolState.standby, .running, .paused, .halted].map patrolCode = [0, 1, 2, 3] ∧
  [LongCode.setConfig, .setLimit, .flush, .relocateBlock].map longCodeByte = [16, 17, 32, 33] ∧
  [LongResult.ok, .dataLost, .aborted, .relocated, .abandoned, .lost, .refused, .dropped, .failed].map resultCode =
    [0, 1, 2, 3, 4, 5, 6, 7, 8] ∧
  [RelocCause.programFail, .uncorrectable, .corrThreshold, .management].map causeCode = [0, 1, 2, 3] ∧
  [EventKind.startup, .relocQueued, .relocDropped, .relocDone, .relocAbandoned, .spareRetired, .blockLost, .linePoisoned, .dataDiscarded,
      .metadataCopyFailed, .healthChanged, .mediaTimeout, .patrolPassDone, .hostProtocolError, .limitChanged, .configChanged].map kindCode =
    [1, 2, 3, 4, 5, 6, 7, 8, 9, 10, 11, 12, 13, 14, 15, 16] ∧
  ∀ (s : State) (seq : Byte), s.inReset = false → s.link.lastSeq ≠ some seq →
    let fields (l : List (Nat × Nat)) : List Byte := l.flatMap fun f => leBytes f.1 f.2
    let flag (b : Bool) : Nat := if b then 1 else 0
    let logged (r : EventRecord) : List Byte := fields [
      (4, r.sequence), (1, kindCode r.body.kind),
      (1, flag r.body.block.isSome + 2 * flag r.body.spare.isSome + 4 * flag r.body.line.isSome +
        8 * flag r.body.cause.isSome + 16 * (r.body.cause.map causeCode).getD 0),
      (3, r.body.block.getD 0), (2, r.body.spare.getD 0), (1, r.body.line.getD 0), (4, r.body.value)]
    let mapped (e : Nat × RemapEntry) : List Byte := fields ([(3, e.1), (2, e.2.spare)] ++ match e.2.state with
      | .inUse => [(1, 0), (1, 0), (2, 0)]
      | .pending prior mark => [(1, 1), (1, flag prior.isSome + 2 * flag mark), (2, prior.getD 0)])
    exec (.getStatus seq []) s = .next (s.answered seq .ok (fields [
      (1, startupCode s.loader.state), (1, healthCode s.health.state),
      (1, flag s.log.alert + 2 * flag s.xlat.frozen + 4 * flag (decide (s.commit.copyA = .failed)) +
        8 * flag (decide (s.commit.copyB = .failed))),
      (2, s.xlat.p), (3, s.xlat.nb), (3, s.xlat.el), (3, s.xlat.elp), (2, 2048 - s.xlat.spares.length),
      (2, s.xlat.remap.length), (1, s.xlat.lost.length), (1, s.staging.entries.length), (1, s.staging.hostSlots.length),
      (1, s.host.readTags.length), (1, engineCode s.reloc.engine),
      (3, if s.reloc.engine = .idle then 0 else (s.reloc.record.map fun x => x.block).getD 0),
      (1, s.reloc.urgent.length + s.reloc.normal.length), (1, s.watch.entries.length), (1, patrolCode s.patrolState),
      (3, s.patrol.block), (1, s.patrol.line), (4, s.patrol.passCount),
      (1, match s.pendingLong with
        | some c => longCodeByte c
        | none => 0),
      (4, s.health.counters.relocationsCompleted), (4, s.health.counters.sparesRetired),
      (4, s.health.counters.linesPoisoned), (4, s.health.counters.uncorrectableSeen),
      (4, s.health.counters.programFailuresSeen)])) ∧
    (s.Hears seq →
      (s.link.long = none → exec (.getResult seq []) s = .next (s.answered seq .refused [])) ∧
      (∀ r, s.link.long = some r →
        let echo : List Byte := [BitVec.ofNat 8 (longCodeByte r.code), r.seq]
        (r.ended = none → exec (.getResult seq []) s = .next (s.answered seq .pending echo)) ∧
        (∀ result, r.ended = some result → exec (.getResult seq []) s =
          .next (s.answered seq .ok (echo ++ fields [(1, resultCode result), (2, r.spare)])))) ∧
      exec (.getConfig seq []) s = .next (s.answered seq .ok
        (([s.runningSettings, s.commit.config].map fun c => fields [(1, c.writeMode), (1, c.drainThreshold), (2, c.ageTimer),
          (1, c.corrThreshold), (1, c.patrolEnable), (2, c.patrolInterval)]).flatten)) ∧
      (∀ params : List Byte, params.length = 4 → exec (.readLog seq params) s = .next (s.answered seq .ok
        (((s.log.records.filter fun r => decide ((r.sequence + 4294967296 - leNat params) % 4294967296 < 2147483648)).take
          4).flatMap logged))) ∧
      (∀ params : List Byte, params.length = 2 → exec (.readRemap seq params) s = .next (s.answered seq .ok
        (fields [(2, s.xlat.remap.length), (2, leNat params)] ++
          ((s.xlat.remap.drop (leNat params)).take 6).flatMap mapped))) ∧
      (∀ first : Byte, exec (.readLost seq [first]) s = .next (s.answered seq .ok
        (fields [(1, s.xlat.lost.length)] ++ ((s.xlat.lost.drop first.toNat).take 21).flatMap (leBytes 3)))) ∧
      (∀ first : Byte, exec (.readWatch seq [first]) s = .next (s.answered seq .ok
        (fields [(1, s.watch.entries.length)] ++ ((s.watch.entries.zipIdx.drop first.toNat).take 10).flatMap fun e =>
          fields [(3, e.1.block), (1, e.1.count), (1, e.1.lastBits), (1, e.2)]))) ∧
      exec (.readQueue seq []) s = .next (s.answered seq .ok
        ((s.reloc.urgent.flatMap fun e => fields [(3, e.block), (1, causeCode e.cause + 8 * flag e.byManagement)]) ++
          s.reloc.normal.flatMap fun e => fields [(3, e.block), (1, causeCode e.cause + 4 + 8 * flag e.byManagement)])))

/-- ACK_ALERT clears the flag that drives ALERT, in every health state, whatever is pending and however the flag stands. -/
def Obligations.AckAlertClearsTheAlert : Prop :=
  ∀ (s : State) (seq : Byte), s.Hears seq →
    exec (.ackAlert seq []) s = .next { s.answered seq .ok [] with log := { s.log with alert := false } }

/-- SET_CONFIG of each item (R179, Table 10-4, R63, R94, R153), volatile or persistent, and its refusals. -/
def Obligations.SetConfigAppliesEachItem : Prop :=
  ∀ (s : State) (seq : Byte) (persistent : Bool) (v : Nat), s.Hears seq → s.health.state ≠ .failed → s.pendingLong = none →
    let flag : Nat := if persistent then 1 else 0
    let params (item : Nat) : List Byte :=
      [BitVec.ofNat 8 item, BitVec.ofNat 8 flag, BitVec.ofNat 8 v, BitVec.ofNat 8 (v / 256)]
    let logged (item : Nat) : State := { s with
      log := appendRecord s.log { kind := .configChanged, value := item + 256 * flag + 65536 * v } }
    let taken (u : State) (config : Settings) : State :=
      if persistent then
        { u with
          commit := { u.commit with config := config }
          posted := (u.posted.filter fun c => !isEnding c) ++ [.commitRequest .link]
          link := { u.link with
            long := some { code := .setConfig, seq := seq, ended := none, spare := 0 }
            lastSeq := some seq
            cached := responseFrame .pending seq []
            readable := .cached } }
      else u.answered seq .ok []
    let config := s.commit.config
    let runs := s.loader.state = .ready ∧ s.patrol.control = .run
    (v ≤ 1 → exec (.setWriteMode seq (params 1)) s = .next (taken
      (State.arbitrate { logged 1 with staging := { s.staging with mode := if v = 0 then .back else .through } })
      { config with writeMode := v })) ∧
    (1 ≤ v → v ≤ 63 → exec (.setDrainThreshold seq (params 2)) s = .next (taken
      (State.arbitrate { logged 2 with staging := { s.staging with threshold := v } }) { config with drainThreshold := v })) ∧
    (1 ≤ v → v ≤ 500 → exec (.setEntryAgeTimer seq (params 3)) s = .next (taken
      { logged 3 with staging := { s.staging with ageTimer := v } } { config with ageTimer := v })) ∧
    (1 ≤ v → v ≤ 255 → exec (.setCorrectionThreshold seq (params 4)) s = .next (taken
      { logged 4 with
        watch := { s.watch with threshold := v, entries := s.watch.entries.filter fun e => decide (e.count < v) }
        posted := s.posted ++ ((s.watch.entries.filter fun e => decide (v ≤ e.count)).reverse.map fun e =>
          .relocRequest e.block .corrThreshold) }
      { config with corrThreshold := v })) ∧
    (v ≤ 1 → exec (.setPatrolEnable seq (params 5)) s = .next (taken
      { logged 5 with
        patrol := { s.patrol with
          enable := decide (v = 1)
          timer := if runs ∧ s.patrol.enable = false ∧ v = 1 then some s.patrol.interval
            else if runs ∧ s.patrol.enable = true ∧ v = 0 then none
            else s.patrol.timer } }
      { config with patrolEnable := v })) ∧
    (10 ≤ v → v ≤ 10000 → exec (.setPatrolInterval seq (params 6)) s = .next (taken
      { logged 6 with patrol := { s.patrol with interval := v } } { config with patrolInterval := v })) ∧
    ∀ a b c d : Byte,
      let n := c.toNat + 256 * d.toNat
      (a.toNat = 0 ∨ 6 < a.toNat ∨ 1 < b.toNat ∨ (a = 1 ∨ a = 5) ∧ 1 < n ∨ a = 2 ∧ (n = 0 ∨ 63 < n) ∨
        a = 3 ∧ (n = 0 ∨ 500 < n) ∨ a = 4 ∧ (n = 0 ∨ 255 < n) ∨ a = 6 ∧ (n < 10 ∨ 10000 < n)) →
      exec (frameRow 16 seq [a, b, c, d]) s = .next (s.answered seq .badParam [])

/-- SET_LIMIT and FREEZE_LIMIT (R180, R181, R37). -/
def Obligations.SetLimitAndFreezeLimit : Prop :=
  ∀ (s : State) (seq : Byte), s.Hears seq → s.health.state ≠ .failed →
    exec (.freezeLimit seq []) s = .next { s.answered seq .ok [] with xlat := { s.xlat with frozen := true } } ∧
    (s.pendingLong = none → ∀ a b c flag : Byte,
      let v := a.toNat + 256 * b.toNat + 65536 * c.toNat
      (s.xlat.frozen = true → exec (.setLimit seq [a, b, c, flag]) s = .next (s.answered seq .frozen [])) ∧
      (s.xlat.frozen = false → 1 < flag.toNat ∨ v = 0 ∨ s.xlat.nb < v →
        exec (.setLimit seq [a, b, c, flag]) s = .next (s.answered seq .badParam [])) ∧
      (s.xlat.frozen = false → 1 ≤ v → v ≤ s.xlat.nb →
        (flag = 0 → exec (.setLimit seq [a, b, c, flag]) s = .next { s.answered seq .ok [] with
          xlat := { s.xlat with el := v }
          log := appendRecord s.log { kind := .limitChanged, value := v } }) ∧
        (flag = 1 → exec (.setLimit seq [a, b, c, flag]) s = .next { s with
          xlat := { s.xlat with el := v, elp := v }
          log := appendRecord s.log { kind := .limitChanged, value := v }
          posted := (s.posted.filter fun c => !isEnding c) ++ [.commitRequest .link]
          link := { s.link with
            long := some { code := .setLimit, seq := seq, ended := none, spare := 0 }
            lastSeq := some seq
            cached := responseFrame .pending seq []
            readable := .cached } })))

/-- PATROL_CONTROL (R182) and its actions at the scanner (R152); `run` is the command of a PATROL_CONTROL frame with any action. -/
def Obligations.PatrolControlActsAtTheScanner : Prop :=
  ∀ (s : State) (seq action : Byte),
    let run := exec (frameRow 19 seq [action]) s
    let answered (p : Patrol) : State := { s.answered seq .ok [] with patrol := p }
    let started := if s.patrolState = .paused ∧ s.loader.state = .ready ∧ s.patrol.enable = true then some s.patrol.interval
      else s.patrol.timer
    (s.Hears seq → s.health.state ≠ .failed → s.pendingLong = none →
      exec (.patrolStop seq [0]) s = .next (answered { s.patrol with
        control := .hold, timer := if s.patrolState = .running then none else s.patrol.timer }) ∧
      exec (.patrolStart seq [1]) s = .next (answered { s.patrol with control := .run, timer := started }) ∧
      exec (.patrolRestart seq [2]) s =
        .next (answered { s.patrol with control := .run, timer := started, block := 0, line := 0 }) ∧
      (2 < action.toNat → run = .next (s.answered seq .badParam []))) ∧
    (s.Hears seq → s.health.state = .failed → run = .next (s.answered seq .failed [])) ∧
    (s.inReset = false → s.link.lastSeq ≠ some seq → s.loader.state = .loadingMfg ∨ s.loader.state = .loadingField →
      run = .next (s.answered seq .notReady []))

/-- FLUSH (R183, R59, R172) and RELOCATE_BLOCK (R184, R102 to R104, R122): into the queue, into its block's entry, or onto the relocation in
flight. The engine's taking of the head is a step of its own (log 7). -/
def Obligations.FlushAndRelocateBlockAreLongCommands : Prop :=
  ∀ (s : State) (seq : Byte), s.Hears seq → s.health.state ≠ .failed → s.pendingLong = none →
    let accepted (u : State) (code : LongCode) (ended : Option LongResult) : State := { u with
      posted := s.posted.filter fun c => !isEnding c
      link := { s.link with
        long := some { code := code, seq := seq, ended := ended, spare := 0 }
        lastSeq := some seq
        cached := responseFrame .pending seq []
        readable := .cached } }
    (s.Quiet →
      ((∃ e ∈ s.staging.entries, e.epoch ≤ s.staging.epoch) →
        (∀ r ∈ s.staging.hostSlots, ∃ e ∈ s.staging.entries, e.epoch ≤ r.epoch) →
        ∃ u, exec (.flush seq []) s = .next u ∧
          u.link = (accepted s .flush none).link ∧ u.staging.epoch = s.staging.epoch + 1 ∧
          u.staging.flushSlot = some { epoch := s.staging.epoch, failFlag := false } ∧
          u.staging.entries.map (fun e => (e.line, e.order, e.data, e.mask, e.epoch)) =
            s.staging.entries.map (fun e => (e.line, e.order, e.data, e.mask, e.epoch)) ∧
          ∀ e ∈ u.staging.entries, e.state ≠ .opened) ∧
      (s.staging.entries = [] → s.staging.hostSlots = [] →
        exec (.flush seq []) s = .next (State.arbitrate
          (accepted { s with staging := { s.staging with epoch := s.staging.epoch + 1, flushSlot := none } } .flush
            (some .ok))))) ∧
    ∀ a b c : Byte,
      let block := a.toNat + 256 * b.toNat + 65536 * c.toNat
      let n := s.reloc.urgent.length + s.reloc.normal.length
      (s.xlat.nb ≤ block → exec (.relocateBlock seq [a, b, c]) s = .next (s.answered seq .badParam [])) ∧
      (block < s.xlat.nb → s.reloc.failed = false →
        (block ∈ s.xlat.lost →
          exec (.relocateBlock seq [a, b, c]) s = .next (accepted s .relocateBlock (some .lost))) ∧
        (block ∉ s.xlat.lost → (∀ x, s.reloc.record = some x → x.block ≠ block) →
          (∀ e ∈ s.reloc.urgent ++ s.reloc.normal, e.block ≠ block) →
          (12 ≤ n → exec (.relocateBlock seq [a, b, c]) s = .next (accepted
            { s with
              log := appendRecord s.log
                { kind := .relocDropped, block := some block, cause := some .management, value := 1 } }
            .relocateBlock (some .refused))) ∧
          (n < 12 → exec (.relocateBlock seq [a, b, c]) s = .next
            (let u := accepted
              { s with
                reloc := { s.reloc with
                  normal := s.reloc.normal ++ [{ block := block, cause := .management, byManagement := true }] }
                log := appendRecord s.log
                  { kind := .relocQueued, block := some block, cause := some .management, value := n + 1 }
                watch := if s.watch.failed = true then s.watch
                  else { s.watch with entries := s.watch.entries.filter fun w => w.block != block } }
              .relocateBlock none
            { u with posted := u.posted ++ if n = 0 ∧ s.reloc.engine = .idle then [.engineTakeHead] else [] }))) ∧
        (block ∉ s.xlat.lost → ∀ x, s.reloc.record = some x → x.block = block →
          exec (.relocateBlock seq [a, b, c]) s = .next (accepted
            { s with reloc := { s.reloc with record := some { x with byManagement := true } } } .relocateBlock none)) ∧
        (block ∉ s.xlat.lost → (∀ x, s.reloc.record = some x → x.block ≠ block) → ∀ before e after, e.block = block →
          let merged : QueueEntry :=
            { e with
              cause := if causeStrength e.cause < causeStrength .management then .management else e.cause
              byManagement := true }
          (s.reloc.normal = before ++ e :: after → (∀ f ∈ s.reloc.urgent ++ before ++ after, f.block ≠ block) →
            exec (.relocateBlock seq [a, b, c]) s = .next (accepted
              { s with reloc := { s.reloc with normal := before ++ merged :: after } } .relocateBlock none)) ∧
          (s.reloc.urgent = before ++ e :: after → (∀ f ∈ before ++ after ++ s.reloc.normal, f.block ≠ block) →
            exec (.relocateBlock seq [a, b, c]) s = .next (accepted
              { s with reloc := { s.reloc with urgent := before ++ merged :: after } } .relocateBlock none))))

/-- ABORT (R174, R60, R107). -/
def Obligations.AbortEndsAFlushOrAQueuedRelocation : Prop :=
  ∀ (s : State) (seq : Byte), s.Hears seq → s.health.state ≠ .failed →
    let run := exec (.abort seq []) s
    ((∀ r, s.link.long = some r → r.ended ≠ none) → run = .next (s.answered seq .refused [])) ∧
    ∀ r, s.link.long = some r → r.ended = none →
      let aborted (u : State) : State := { u with
        link := { s.link with
          long := some { r with ended := some .aborted, spare := 0 }
          lastSeq := some seq
          cached := responseFrame .ok seq []
          readable := .cached } }
      (r.code = .setLimit ∨ r.code = .setConfig → run = .next (s.answered seq .refused [])) ∧
      (r.code = .flush → run = .next (aborted { s with staging := { s.staging with flushSlot := none } })) ∧
      (r.code = .relocateBlock →
        (∀ x, s.reloc.record = some x → x.byManagement = true → run = .next (s.answered seq .refused [])) ∧
        ((∀ x, s.reloc.record = some x → x.byManagement = false) →
          (∀ before e after, s.reloc.normal = before ++ e :: after → e.byManagement = true →
            (∀ f ∈ s.reloc.urgent ++ before ++ after, f.byManagement = false ∧ f.block ≠ e.block) →
            run = .next (aborted { s with
              reloc := { s.reloc with
                normal := before ++ (if e.cause = .management then [] else [{ e with byManagement := false }]) ++ after } })) ∧
          (∀ before e after, s.reloc.urgent = before ++ e :: after → e.byManagement = true →
            (∀ f ∈ before ++ after ++ s.reloc.normal, f.byManagement = false ∧ f.block ≠ e.block) →
            e.cause ≠ .management →
            run = .next (aborted { s with
              reloc := { s.reloc with urgent := before ++ { e with byManagement := false } :: after } }))))

/-! ## The whole part -/

/-- A command that a frame of the link carries is read back from its frame (Tables 10-6 and 10-7). -/
def Obligations.FramesAreReadBack : Prop := ∀ c : Instr, Sys2Proof.Laws.FrameRoundTrip.Statement c

/-- Every step keeps a sound state (R25, R32, R34, R39, R49, R56, R68, R70, R78, R80, R88, R100, R102, R108, R162, R163), and some of what
soundness gives: at most 32 reads in the queue, as many barrier tags as occupied host slots, at most one PENDING entry. -/
def Obligations.EveryStepKeepsASoundState : Prop :=
  (∀ s t : State, s.Sound → step s = .next t → t.Sound) ∧
  ∀ s : State, s.Sound →
    s.host.queue.length ≤ 32 ∧ s.host.readTags.length = s.host.queue.length ∧
    s.host.barrierTags.length = s.staging.hostSlots.length ∧
    (s.xlat.spares.filter fun e => decide (e.2 = .pending)).length ≤ 1 ∧
    ∀ b ∈ s.xlat.lost, tableGet s.xlat.remap b = none ∧ ∀ e ∈ s.reloc.urgent ++ s.reloc.normal, e.block ≠ b

/-- The state after a power-on reset is sound, and holds the values the manual gives (R16, R38, R63, R64, R83, R98, R124, R130 with the
defaults of Table 7-2, R139, R146, R159, R161, R167, R168). That the acceptance order
begins again at 0 is the model's choice (log 21). -/
def Obligations.ResetLeavesASoundState : Prop :=
  let s := State.reset
  s.Sound ∧
  (s.port.record = none ∧ s.port.nextId = 0 ∧ s.array.op = none ∧ ∀ q, s.offers q = false) ∧
  (s.xlat.defects = [] ∧ s.xlat.p = 0 ∧ s.xlat.nb = 0 ∧ s.xlat.remap = [] ∧ (∀ i, spareState s.xlat i = .free) ∧
    s.xlat.lost = [] ∧ s.xlat.el = 0 ∧ s.xlat.elp = 0 ∧ s.xlat.frozen = false) ∧
  (s.staging.entries = [] ∧ s.staging.epoch = 0 ∧ s.staging.nextOrder = 0 ∧ s.staging.hostSlots = [] ∧ s.staging.flushSlot = none ∧
    s.staging.mode = .back ∧ s.staging.threshold = 16 ∧ s.staging.ageTimer = 20 ∧ s.staging.fences = [] ∧
    s.staging.drainOp = none) ∧
  (s.host.channel = [] ∧ s.host.responses = [] ∧ s.host.readTags = [] ∧ s.host.writeTags = [] ∧ s.host.barrierTags = [] ∧
    s.host.queue = [] ∧ s.host.ready = .starting ∧ s.host.abandoned = none) ∧
  (s.watch.entries = [] ∧ s.watch.threshold = 8) ∧
  (s.reloc.urgent = [] ∧ s.reloc.normal = [] ∧ s.reloc.engine = .idle ∧ s.reloc.record = none) ∧
  (s.commit.copyA = .ok ∧ s.commit.copyB = .ok ∧ s.commit.holder = none ∧ s.commit.newestSeq = 0 ∧ s.commit.lastSeq = 0 ∧
    s.commit.writing = none ∧ s.commit.stopped = false ∧ s.commit.followUp = false ∧ s.commit.waiters = [] ∧
    s.commit.config =
      { writeMode := 0, drainThreshold := 16, ageTimer := 20, corrThreshold := 8, patrolEnable := 1, patrolInterval := 100 }) ∧
  s.loader.state = .loadingMfg ∧
  (s.patrolState = .standby ∧ s.patrol.enable = true ∧ s.patrol.interval = 100 ∧ s.patrol.control = .run ∧
    s.patrol.block = 0 ∧ s.patrol.line = 0 ∧ s.patrol.passCount = 0 ∧ s.patrol.timer = none ∧ s.patrol.outstanding = none) ∧
  (s.health.state = .normal ∧ s.health.free = 2048 ∧ s.health.lost = 0 ∧ s.health.overflow = false ∧ s.health.copyA = .ok ∧
    s.health.copyB = .ok ∧ s.health.startup = none ∧ s.health.counters =
      { relocationsCompleted := 0, sparesRetired := 0, linesPoisoned := 0, uncorrectableSeen := 0, programFailuresSeen := 0 }) ∧
  (s.log.records = [] ∧ s.log.next = 1 ∧ s.log.alert = false) ∧
  (s.link.lastSeq = none ∧ s.link.cached = [] ∧ s.link.readable = .none ∧ s.link.long = none)

/-- Between power-on resets the health state does not fall (R157), and once start-up has ended and the freeze flag is set, the flag,
EL and ELp stay (R36, R37, R181). -/
def Obligations.HealthAndFrozenLimitsStandBetweenResets : Prop :=
  ∀ (c : Instr) (s t : State), c ≠ .powerOnReset → c ≠ .supplyFall → exec c s = .next t →
    healthCode s.health.state ≤ healthCode t.health.state ∧
    (s.xlat.frozen = true → s.loader.state ≠ .loadingMfg → s.loader.state ≠ .loadingField →
      t.xlat.frozen = true ∧ t.xlat.el = s.xlat.el ∧ t.xlat.elp = s.xlat.elp)

/-- Only the end of a program changes a line of the array (R3, R5, R16). -/
def Obligations.OnlyTheEndOfAProgramChangesTheArray : Prop :=
  ∀ (c : Instr) (s t : State), exec c s = .next t →
    (c ≠ .powerOnReset → c ≠ .supplyFall → (∀ order event, c ≠ .mediaTimeout order event) →
      (∀ id answer order, c ≠ .mediaAnswer id answer order) → t.array.cells = s.array.cells) ∧
    ∀ key, (∀ op, s.array.op = some op → op.kind = .program → key ≠ op.pblock * 64 + op.line) →
      cellAt t.array.cells key = cellAt s.array.cells key

end Statements
end

