-- ==== Sys2Proof/Laws/Tables.lean ====
section
/-! SUPPORT. What the operations on tables, lists, bytes and the array's cells do. -/

namespace Sys2Proof.Machine

/-! ## Tables -/

section
variable {α : Type}

theorem tableGet_tableSet (t : List (Nat × α)) (k j : Nat) (a : α) :
    tableGet (tableSet t k a) j = if j = k then some a else tableGet t j := by
  induction t with
  | nil =>
    by_cases h : j = k
    · simp [tableSet, tableGet, h]
    · have hk : ¬ k = j := fun e => h e.symm
      simp [tableSet, tableGet, h, hk]
  | cons p rest ih =>
    obtain ⟨i, b⟩ := p
    unfold tableSet
    by_cases h1 : k < i
    · by_cases h : j = k
      · simp [h1, tableGet, h]
      · have hk : ¬ k = j := fun e => h e.symm
        simp [h1, tableGet, h, hk]
    · by_cases h2 : k = i
      · subst h2
        by_cases h : j = k
        · simp [tableGet, h]
        · have hk : ¬ k = j := fun e => h e.symm
          simp [tableGet, h, hk]
      · simp only [h1, h2, if_false, tableGet, ih]
        by_cases h3 : i = j
        · subst h3
          have hk : ¬ i = k := fun e => h2 e.symm
          simp [hk]
        · simp [h3]

theorem tableGet_tableErase (t : List (Nat × α)) (k j : Nat) :
    tableGet (tableErase t k) j = if j = k then none else tableGet t j := by
  induction t with
  | nil => simp [tableErase, tableGet]
  | cons p rest ih =>
    obtain ⟨i, b⟩ := p
    unfold tableErase at ih ⊢
    by_cases h : i = k
    · subst h
      by_cases hj : j = i
      · subst hj
        simpa using ih
      · have hij : ¬ i = j := fun e => hj e.symm
        simp [tableGet, ih, hj, hij]
    · by_cases hj : i = j
      · subst hj
        simp [h, tableGet]
      · simp [h, tableGet, hj, ih]

/-- A table in rising order, without its first entry. -/
theorem tableSorted_tail {p : Nat × α} {t : List (Nat × α)} (h : tableSorted (p :: t) = true) : tableSorted t = true := by
  cases t with
  | nil => rfl
  | cons q rest => simp [tableSorted] at h; exact h.2

/-- The first key of a table in rising order is below every other. -/
theorem tableSorted_lt {p : Nat × α} {t : List (Nat × α)} (h : tableSorted (p :: t) = true) : ∀ q ∈ t, p.1 < q.1 := by
  induction t generalizing p with
  | nil => simp
  | cons q rest ih =>
    simp [tableSorted] at h
    intro r hr
    rcases List.mem_cons.1 hr with rfl | hr
    · exact h.1
    · exact lt_trans h.1 (ih h.2 r hr)

theorem tableSorted_cons {p : Nat × α} {t : List (Nat × α)} (ht : tableSorted t = true) (hp : ∀ q ∈ t, p.1 < q.1) :
    tableSorted (p :: t) = true := by
  cases t with
  | nil => rfl
  | cons q rest => simp [tableSorted, ht]; exact hp q (by simp)

theorem tableSet_mem {t : List (Nat × α)} {k : Nat} {a : α} {q : Nat × α} (h : q ∈ tableSet t k a) :
    q = (k, a) ∨ q ∈ t := by
  induction t with
  | nil => simpa [tableSet] using h
  | cons p rest ih =>
    obtain ⟨i, b⟩ := p
    unfold tableSet at h
    by_cases h1 : k < i
    · simpa [h1] using h
    · by_cases h2 : k = i
      · rw [if_neg h1, if_pos h2] at h
        rcases List.mem_cons.1 h with h | h
        · exact .inl (by simpa [h2] using h)
        · exact .inr (List.mem_cons_of_mem _ h)
      · simp only [h1, h2, if_false] at h
        rcases List.mem_cons.1 h with h | h
        · exact .inr (by simp [h])
        · exact (ih h).imp id (List.mem_cons_of_mem _)

theorem tableSet_sorted {t : List (Nat × α)} (h : tableSorted t = true) (k : Nat) (a : α) :
    tableSorted (tableSet t k a) = true := by
  induction t with
  | nil => rfl
  | cons p rest ih =>
    obtain ⟨i, b⟩ := p
    have hlt := tableSorted_lt h
    have ht := tableSorted_tail h
    unfold tableSet
    by_cases h1 : k < i
    · simp [h1, tableSorted, h]
    · by_cases h2 : k = i
      · subst h2
        simpa [h1] using tableSorted_cons (p := (k, a)) ht hlt
      · simp only [h1, h2, if_false]
        refine tableSorted_cons (ih ht) fun q hq => ?_
        rcases tableSet_mem hq with rfl | hq
        · show i < k
          omega
        · exact hlt q hq

theorem filter_sorted {t : List (Nat × α)} (h : tableSorted t = true) (f : Nat × α → Bool) :
    tableSorted (t.filter f) = true := by
  induction t with
  | nil => rfl
  | cons p rest ih =>
    have hr := ih (tableSorted_tail h)
    by_cases hf : f p
    · simp only [List.filter_cons, hf, if_true]
      exact tableSorted_cons hr fun q hq => tableSorted_lt h q (List.mem_filter.1 hq).1
    · simpa [List.filter_cons, hf] using hr

theorem tableErase_sorted {t : List (Nat × α)} (h : tableSorted t = true) (k : Nat) :
    tableSorted (tableErase t k) = true := filter_sorted h _

end

/-! ## The array's cells -/

/-- A line reads as it was last set, every other line as before. -/
theorem cellAt_setCell (cells : List (Nat × Cell)) (k j : Nat) (c : Cell) :
    cellAt (setCell cells k c) j = if j = k then c else cellAt cells j := by
  unfold setCell cellAt
  by_cases hc : c = madeCell k
  · rw [if_pos hc, tableGet_tableErase]
    by_cases hj : j = k
    · subst hj; simp [hc]
    · simp [hj]
  · rw [if_neg hc, tableGet_tableSet]
    by_cases hj : j = k <;> simp [hj]

/-- Setting a line keeps the canonical form. -/
theorem setCell_canonical {cells : List (Nat × Cell)} (h : cellsCanonical cells = true) (k : Nat) (c : Cell) :
    cellsCanonical (setCell cells k c) = true := by
  unfold cellsCanonical setCell at *
  simp only [Bool.and_eq_true, List.all_eq_true, decide_eq_true_eq] at h ⊢
  by_cases hc : c = madeCell k
  · rw [if_pos hc]
    exact ⟨tableErase_sorted h.1 k, fun q hq => h.2 q (List.mem_filter.1 hq).1⟩
  · rw [if_neg hc]
    refine ⟨tableSet_sorted h.1 k c, fun q hq => ?_⟩
    rcases tableSet_mem hq with rfl | hq
    · exact hc
    · exact h.2 q hq

/-- The end of an operation keeps the array's canonical form. -/
theorem endArrayOp_canonical {a : ArrayState} (h : cellsCanonical a.cells = true) (r : ProgramResult) :
    cellsCanonical (endArrayOp a r).cells = true := by
  unfold endArrayOp
  split
  · split
    · exact setCell_canonical h _ _
    · exact h
  · exact h

/-- The end of an operation changes the one line of a program that was begun. -/
theorem endArrayOp_cellAt (a : ArrayState) (r : ProgramResult) (j : Nat) :
    cellAt (endArrayOp a r).cells j =
      match a.op with
      | some op =>
        if op.kind = .program ∧ j = arrayKey op.pblock op.line then programmedCell op r else cellAt a.cells j
      | none => cellAt a.cells j := by
  unfold endArrayOp
  cases h : a.op with
  | none => simp
  | some op =>
    cases hk : op.kind with
    | read => simp [hk]
    | program => simp [hk, cellAt_setCell]

/-! ## Lists of numbers -/

theorem mem_insertRising (l : List Nat) (n m : Nat) : m ∈ insertRising l n ↔ m = n ∨ m ∈ l := by
  induction l with
  | nil => simp [insertRising]
  | cons i rest ih =>
    unfold insertRising
    by_cases h1 : n < i
    · simp [h1]
    · by_cases h2 : n = i
      · subst h2; simp
      · simp [h1, h2, ih]; tauto

theorem insertRising_length (l : List Nat) (n : Nat) : (insertRising l n).length ≤ l.length + 1 := by
  induction l with
  | nil => simp [insertRising]
  | cons i rest ih =>
    unfold insertRising
    split
    · simp
    · split
      · simp
      · simp; omega

/-! ## Bytes -/

@[simp] theorem leBytes_length (k n : Nat) : (leBytes k n).length = k := by
  induction k generalizing n with
  | zero => rfl
  | succ k ih => simp [leBytes, ih]

/-- A number is read back from its bytes, when they hold it. -/
theorem leNat_leBytes (k n : Nat) (h : n < 256 ^ k) : leNat (leBytes k n) = n := by
  induction k generalizing n with
  | zero => simp at h; simp [leBytes, leNat, h]
  | succ k ih =>
    have h1 : n / 256 < 256 ^ k := by
      rw [pow_succ] at h
      exact Nat.div_lt_of_lt_mul (by rwa [Nat.mul_comm] at h)
    simp only [leBytes, leNat, ih _ h1, BitVec.toNat_ofNat]
    have := Nat.div_add_mod n 256
    omega

/-! ## A free order -/

/-- A free order is a reordering: it loses and adds nothing. -/
theorem freeOrder_perm {α : Type} (n c : Nat) (l : List α) (h : l.length ≤ n) : (freeOrder n c l).Perm l := by
  induction n generalizing c l with
  | zero =>
    have : l = [] := List.eq_nil_of_length_eq_zero (by omega)
    simp [this, freeOrder]
  | succ n ih =>
    match l, h with
    | [], _ => simp [freeOrder]
    | [x], _ => simp [freeOrder]
    | x :: y :: rest, h =>
      have hi : Config.freeChoice c % (x :: y :: rest).length < (x :: y :: rest).length := Nat.mod_lt _ (by simp)
      simp only [freeOrder]
      generalize Config.freeChoice c % (x :: y :: rest).length = i at hi
      rw [List.getElem?_eq_getElem hi]
      have hp := ih (c + 1) ((x :: y :: rest).eraseIdx i) (by rw [List.length_eraseIdx_of_lt hi]; simp at h ⊢; omega)
      refine (List.Perm.cons _ hp).trans ?_
      exact List.getElem_cons_eraseIdx_perm hi

@[simp] theorem freeOrder_nil {α : Type} (n c : Nat) : freeOrder n c ([] : List α) = [] := by cases n <;> rfl

@[simp] theorem freeOrder_single {α : Type} (n c : Nat) (x : α) : freeOrder n c [x] = [x] := by cases n <;> rfl

end Sys2Proof.Machine
end

