-- ==== Sys2Proof/Laws/Agree.lean ====
section
/-! SUPPORT. What the operations of the address translation unit, the engine and the loader do to the agreement of the tables with the
relocation in flight. -/

namespace Sys2Proof.Machine

/-! ## Lists and tables -/

/-- The lowest number that is not a key is not a key. -/
theorem tableGet_lowestAbsent {α : Type} {t : List (Nat × α)} (h : tableSorted t = true) (c : Nat) (hc : ∀ p ∈ t, c ≤ p.1) :
    tableGet t (lowestAbsent t c) = none ∧ c ≤ lowestAbsent t c := by
  induction t generalizing c with
  | nil => exact ⟨rfl, le_refl _⟩
  | cons p rest ih =>
    have hlt := tableSorted_lt h
    unfold lowestAbsent
    split
    · rename_i he
      have := ih (tableSorted_tail h) (c + 1) (fun q hq => by have := hlt q hq; omega)
      refine ⟨?_, by omega⟩
      unfold tableGet
      rw [if_neg (by omega)]
      exact this.1
    · rename_i he
      refine ⟨?_, le_refl _⟩
      unfold tableGet
      rw [if_neg he]
      have hp := hc p (List.mem_cons_self ..)
      have := ih (tableSorted_tail h) c (fun q hq => by have := hc q (List.mem_cons_of_mem _ hq); exact this)
      have hne : lowestAbsent rest c = c := by
        cases rest with
        | nil => rfl
        | cons q r =>
          have := hlt q (List.mem_cons_self ..)
          unfold lowestAbsent
          rw [if_neg (by omega)]
      rw [← hne]
      exact this.1

theorem tableGet_mem {α : Type} {t : List (Nat × α)} {k : Nat} {a : α} (h : tableGet t k = some a) : (k, a) ∈ t := by
  induction t with
  | nil => cases h
  | cons p rest ih =>
    unfold tableGet at h
    split at h
    · rename_i he; cases h; subst he; exact List.mem_cons_self ..
    · exact List.mem_cons_of_mem _ (ih h)

theorem tableGet_of_mem {α : Type} {t : List (Nat × α)} (hs : tableSorted t = true) {k : Nat} {a : α} (h : (k, a) ∈ t) :
    tableGet t k = some a := by
  induction t with
  | nil => cases h
  | cons p rest ih =>
    unfold tableGet
    rcases List.mem_cons.1 h with rfl | hm
    · simp
    · rw [if_neg (by have := tableSorted_lt hs _ hm; simp only at this; omega)]
      exact ih (tableSorted_tail hs) hm

theorem rising_insert {l : List Nat} (h : rising l = true) (n : Nat) : rising (insertRising l n) = true := by
  induction l with
  | nil => rfl
  | cons m rest ih =>
    unfold insertRising
    split
    · simp [rising, *]
    · split
      · exact h
      · have h2 : rising rest = true := by
          cases rest with
          | nil => rfl
          | cons k r => simp [rising] at h; exact h.2
        have := ih h2
        cases rest with
        | nil => simp [insertRising, rising]; omega
        | cons k r =>
          simp only [rising, Bool.and_eq_true, decide_eq_true_eq] at h
          unfold insertRising at this ⊢
          split at this
          · simp [rising, *]; omega
          · split at this
            · simp [rising, *]
            · simp [rising, *] at this ⊢

/-! ## Spare states -/

theorem spareState_set (x : Xlat) (k i : Nat) (v : SpareState) (y : Xlat) (h : y.spares = tableSet x.spares k v) :
    spareState y i = if i = k then v else spareState x i := by
  unfold spareState
  rw [h, tableGet_tableSet]
  split <;> rfl

/-- A spare that is not FREE is listed, and is a spare of the part. -/
theorem TablesFit.lt {x : Xlat} (f : TablesFit x) {i : Nat} (h : spareState x i ≠ .free) : i < Config.spareCount := by
  unfold spareState at h
  cases hg : tableGet x.spares i with
  | none => simp [hg] at h
  | some a => exact (f.listed _ (tableGet_mem hg)).1

theorem listed_set {x : Xlat} (f : TablesFit x) {k : Nat} {v : SpareState} (hk : k < Config.spareCount) (hv : v ≠ .free) :
    ∀ e ∈ tableSet x.spares k v, e.1 < Config.spareCount ∧ e.2 ≠ .free := by
  intro e he
  rcases tableSet_mem he with rfl | hm
  · exact ⟨hk, hv⟩
  · exact f.listed e hm

/-- What an allocation finds (R32). -/
theorem spareToAllocate_some {x : Xlat} (f : tableSorted x.spares = true) {i : Nat} (h : spareToAllocate x = some i) :
    i < Config.spareCount ∧ spareState x i = .free ∧ ∀ j, spareState x j ≠ .pending := by
  unfold spareToAllocate at h
  dsimp only at h
  split at h
  · rename_i hc
    cases h
    refine ⟨hc.1, ?_, ?_⟩
    · unfold spareState
      rw [(tableGet_lowestAbsent f 0 (fun _ _ => Nat.zero_le _)).1]
      rfl
    · intro j hj
      unfold spareState at hj
      cases hg : tableGet x.spares j with
      | none => simp [hg] at hj
      | some a =>
        have := List.all_eq_true.1 hc.2 _ (tableGet_mem hg)
        simp [hg] at hj
        simp [hj] at this
  · cases h

/-! ## The tables through a relocation -/

/-- The block's entry holds the spare IN_USE. -/
def heldBy (x : Xlat) (b i : Nat) : Prop := ∃ e, tableGet x.remap b = some e ∧ e.Holds i

/-- The block's entry is PENDING with the spare. -/
def pendingBy (x : Xlat) (b i : Nat) : Prop := ∃ p m, tableGet x.remap b = some { spare := i, state := .pending p m }

namespace TablesFit

variable {x : Xlat}

theorem inUse_iff (f : TablesFit x) (i : Nat) : spareState x i = .inUse ↔ ∃ b, heldBy x b i := f.inUse i

theorem pending_iff (f : TablesFit x) (i : Nat) : spareState x i = .pending ↔ ∃ b, pendingBy x b i := f.pending i

/-- The entry of one block and the states of the spares change together. -/
theorem change (f : TablesFit x) {y : Xlat} (b : Nat) (hg : ∀ c, c ≠ b → tableGet y.remap c = tableGet x.remap c)
    (hr : tableSorted y.remap = true) (hs : tableSorted y.spares = true)
    (hl : ∀ e ∈ y.spares, e.1 < Config.spareCount ∧ e.2 ≠ .free)
    (h1 : rising y.lost = true) (h2 : y.lost.length ≤ Config.lostBlocks) (h3 : ∀ c ∈ y.lost, tableGet y.remap c = none)
    (hu : ∀ i, spareState y i = .inUse ↔ spareState x i = .inUse ∧ ¬ heldBy x b i ∨ heldBy y b i)
    (hn : ∀ i, heldBy y b i → heldBy x b i ∨ spareState x i ≠ .inUse)
    (hp : ∀ i, spareState y i = .pending ↔ spareState x i = .pending ∧ ¬ pendingBy x b i ∨ pendingBy y b i)
    (hq : ∀ e, tableGet y.remap b = some e → e.state ≠ .inUse →
      (∃ g, tableGet x.remap b = some g ∧ g.state ≠ .inUse) ∨ ∀ i, spareState x i ≠ .pending) : TablesFit y := by
  have hh : ∀ c i, c ≠ b → (heldBy y c i ↔ heldBy x c i) := fun c i hc => by unfold heldBy; rw [hg c hc]
  have hpp : ∀ c i, c ≠ b → (pendingBy y c i ↔ pendingBy x c i) := fun c i hc => by unfold pendingBy; rw [hg c hc]
  have hone : ∀ c d i, heldBy x c i → heldBy x d i → c = d := fun c d i ⟨e, he, hi⟩ ⟨g, hgd, hj⟩ => f.held c d e g i he hgd hi hj
  have hsg : ∀ c d i j, pendingBy x c i → pendingBy x d j → c = d := fun c d i j ⟨p, m, he⟩ ⟨p', m', hgd⟩ =>
    f.single c d _ _ he hgd (by simp) (by simp)
  refine ⟨hr, hs, hl, h1, h2, h3, ?_, ?_, ?_, ?_⟩
  · intro i
    show _ ↔ ∃ c, heldBy y c i
    rw [hu, f.inUse_iff]
    constructor
    · rintro (⟨⟨c, hc⟩, hnb⟩ | h)
      · have hcb : c ≠ b := by rintro rfl; exact hnb hc
        exact ⟨c, (hh c i hcb).2 hc⟩
      · exact ⟨b, h⟩
    · rintro ⟨c, hc⟩
      by_cases hcb : c = b
      · subst hcb; exact .inr hc
      · have := (hh c i hcb).1 hc
        exact .inl ⟨⟨c, this⟩, fun hb => hcb (hone c b i this hb)⟩
  · intro c d e g i hc hd he hi
    have k1 : heldBy y c i := ⟨e, hc, he⟩
    have k2 : heldBy y d i := ⟨g, hd, hi⟩
    have key : ∀ a, a ≠ b → heldBy y a i → heldBy y b i → False := by
      intro a hab ha hb
      have ha := (hh a i hab).1 ha
      rcases hn i hb with hb | hb
      · exact hab (hone a b i ha hb)
      · exact hb ((f.inUse_iff i).2 ⟨a, ha⟩)
    by_cases hcb : c = b
    · by_cases hdb : d = b
      · rw [hcb, hdb]
      · subst hcb; exact (key d hdb k2 k1).elim
    · by_cases hdb : d = b
      · subst hdb; exact (key c hcb k1 k2).elim
      · exact hone c d i ((hh c i hcb).1 k1) ((hh d i hdb).1 k2)
  · intro i
    show _ ↔ ∃ c, pendingBy y c i
    rw [hp, f.pending_iff]
    constructor
    · rintro (⟨⟨c, hc⟩, hnb⟩ | h)
      · have hcb : c ≠ b := by rintro rfl; exact hnb hc
        exact ⟨c, (hpp c i hcb).2 hc⟩
      · exact ⟨b, h⟩
    · rintro ⟨c, hc⟩
      by_cases hcb : c = b
      · subst hcb; exact .inr hc
      · have := (hpp c i hcb).1 hc
        exact .inl ⟨⟨c, this⟩, fun hb => hcb (hsg c b i i this hb)⟩
  · have hst : ∀ {e : RemapEntry}, e.state ≠ .inUse → ∃ p m, e = { spare := e.spare, state := .pending p m } := by
      intro e he
      obtain ⟨sp, st⟩ := e
      cases st with
      | inUse => exact absurd rfl he
      | pending p m => exact ⟨p, m, rfl⟩
    have key : ∀ a e g, a ≠ b → tableGet y.remap a = some e → tableGet y.remap b = some g → e.state ≠ .inUse → g.state ≠ .inUse →
        False := by
      intro a e g hab ha hb he hgi
      rw [hg a hab] at ha
      rcases hq g hb hgi with ⟨g', hb', hgi'⟩ | hno
      · exact hab (f.single a b e g' ha hb' he hgi')
      · obtain ⟨p, m, hpm⟩ := hst he
        rw [hpm] at ha
        exact hno e.spare ((f.pending e.spare).2 ⟨a, p, m, ha⟩)
    intro c d e g hc hd he hi
    by_cases hcb : c = b
    · by_cases hdb : d = b
      · rw [hcb, hdb]
      · subst hcb; exact (key d g e hdb hd hc hi he).elim
    · by_cases hdb : d = b
      · subst hdb; exact (key c e g hcb hc hd he hi).elim
      · exact f.single c d e g (hg c hcb ▸ hc) (hg d hdb ▸ hd) he hi

/-- A PENDING entry is made (R26). -/
theorem makePending (f : TablesFit x) {b i : Nat} (hi : spareToAllocate x = some i) (hb : b ∉ x.lost) :
    TablesFit { x with
      spares := tableSet x.spares i .pending
      remap := tableSet x.remap b { spare := i, state := .pending (priorOf x b) false } } := by
  obtain ⟨hlt, hfree, hnone⟩ := spareToAllocate_some f.spares hi
  have hp : ∀ c e p m, tableGet x.remap c ≠ some { spare := e, state := .pending p m } :=
    fun c e p m h => hnone e ((f.pending e).2 ⟨c, p, m, h⟩)
  have hs := fun j => spareState_set x i j .pending { x with
      spares := tableSet x.spares i .pending
      remap := tableSet x.remap b { spare := i, state := .pending (priorOf x b) false } } rfl
  have hold : ∀ j, heldBy { x with
      spares := tableSet x.spares i .pending
      remap := tableSet x.remap b { spare := i, state := .pending (priorOf x b) false } } b j ↔ heldBy x b j := by
    intro j
    unfold heldBy priorOf RemapEntry.Holds
    simp only [tableGet_tableSet, if_true]
    cases hg : tableGet x.remap b with
    | none => simp
    | some e =>
      obtain ⟨sp, st⟩ := e
      cases st with
      | inUse => simp
      | pending p m => exact absurd hg (hp _ _ _ _)
  refine f.change b (fun c hc => by simp only [tableGet_tableSet]; rw [if_neg hc]) (tableSet_sorted f.remap _ _)
    (tableSet_sorted f.spares _ _) (listed_set f hlt (by decide)) f.lost f.lostLength ?_ ?_ ?_ ?_ ?_
  · intro c hc
    simp only [tableGet_tableSet]
    rw [if_neg (by rintro rfl; exact hb hc)]
    exact f.unmapped c hc
  · intro j
    rw [hs, hold]
    have := (f.inUse_iff j).2
    grind
  · intro j h
    exact .inl ((hold j).1 h)
  · intro j
    rw [hs]
    have := hnone j
    simp only [pendingBy, tableGet_tableSet, if_true]
    grind
  · exact fun _ _ _ => .inr hnone

/-- The spare of a PENDING entry is PENDING, and no other entry names it. -/
theorem pendingSpare (f : TablesFit x) {b sp : Nat} {p : Option Nat} {m : Bool}
    (h : tableGet x.remap b = some { spare := sp, state := .pending p m }) : spareState x sp = .pending :=
  (f.pending sp).2 ⟨b, p, m, h⟩

/-- Copy complete is set (R28). -/
theorem markCopied (f : TablesFit x) (b : Nat) : TablesFit (Machine.markCopied x b) := by
  unfold Machine.markCopied
  split
  · rename_i e hb
    obtain ⟨sp, st⟩ := e
    dsimp only
    split
    · rename_i p m
      refine f.change b (fun c hc => by simp only [tableGet_tableSet]; rw [if_neg hc]) (tableSet_sorted f.remap _ _)
        f.spares f.listed f.lost f.lostLength ?_ ?_ ?_ ?_ ?_
      · intro c hc
        have := f.unmapped c hc
        simp only [tableGet_tableSet]
        grind
      · intro j
        have := f.inUse_iff j
        show spareState x j = _ ↔ _
        simp only [heldBy, tableGet_tableSet, RemapEntry.Holds] at this ⊢
        grind
      · intro j
        simp only [heldBy, tableGet_tableSet, RemapEntry.Holds]
        grind
      · intro j
        have := f.pending_iff j
        show spareState x j = _ ↔ _
        simp only [pendingBy, tableGet_tableSet] at this ⊢
        grind
      · exact fun _ _ _ => .inl ⟨_, hb, by simp⟩
    · exact f
  · exact f

/-- A spare of a PENDING entry fails, and the entry's PENDING status is removed (R27, R30). -/
theorem failAndDrop (f : TablesFit x) {b sp : Nat} {p : Option Nat} {m : Bool}
    (hb : tableGet x.remap b = some { spare := sp, state := .pending p m }) :
    TablesFit (dropPending { x with spares := tableSet x.spares sp .retired } b) := by
  have hsp := f.pendingSpare hb
  have hlt := f.lt (i := sp) (by rw [hsp]; decide)
  have hl := listed_set f hlt (v := .retired) (by decide)
  have hsort := tableSet_sorted f.spares sp SpareState.retired
  unfold dropPending
  simp only [hb]
  have hs := fun (y : Xlat) (h : y.spares = tableSet x.spares sp .retired) j => spareState_set x sp j .retired y h
  cases p with
  | some t =>
    dsimp only
    have hs := hs { x with spares := tableSet x.spares sp .retired, remap := tableSet x.remap b { spare := t, state := .inUse } } rfl
    refine f.change b (fun c hc => by simp only [tableGet_tableSet]; rw [if_neg hc]) (tableSet_sorted f.remap _ _)
      hsort hl f.lost f.lostLength ?_ ?_ ?_ ?_ ?_
    · intro c hc
      have := f.unmapped c hc
      simp only [tableGet_tableSet]
      grind
    · intro j
      have := f.inUse_iff j
      rw [hs]
      simp only [heldBy, tableGet_tableSet, RemapEntry.Holds] at this ⊢
      grind
    · intro j
      simp only [heldBy, tableGet_tableSet, RemapEntry.Holds]
      grind
    · intro j
      have := f.pending_iff j
      rw [hs]
      simp only [pendingBy, tableGet_tableSet] at this ⊢
      grind
    · exact fun _ _ _ => .inl ⟨_, hb, by simp⟩
  | none =>
    dsimp only
    have hs := hs { x with spares := tableSet x.spares sp .retired, remap := tableErase x.remap b } rfl
    refine f.change b (fun c hc => by simp only [tableGet_tableErase]; rw [if_neg hc]) (tableErase_sorted f.remap _)
      hsort hl f.lost f.lostLength ?_ ?_ ?_ ?_ ?_
    · intro c hc
      have := f.unmapped c hc
      simp only [tableGet_tableErase]
      grind
    · intro j
      have := f.inUse_iff j
      rw [hs]
      simp only [heldBy, tableGet_tableErase, RemapEntry.Holds] at this ⊢
      grind
    · intro j
      simp only [heldBy, tableGet_tableErase, RemapEntry.Holds]
      grind
    · intro j
      have := f.pending_iff j
      rw [hs]
      simp only [pendingBy, tableGet_tableErase] at this ⊢
      grind
    · exact fun _ _ _ => .inl ⟨_, hb, by simp⟩

/-- A spare of a PENDING entry fails, and another takes its place (R27). -/
theorem replace (f : TablesFit x) {b sp u : Nat} {p : Option Nat} {m : Bool}
    (hb : tableGet x.remap b = some { spare := sp, state := .pending p m })
    (hu : spareToAllocate { x with spares := tableSet x.spares sp .retired } = some u) :
    TablesFit { x with
      spares := tableSet (tableSet x.spares sp .retired) u .pending
      remap := tableSet x.remap b { spare := u, state := .pending p m } } := by
  have hsp := f.pendingSpare hb
  have hlt := f.lt (i := sp) (by rw [hsp]; decide)
  have hsort := tableSet_sorted f.spares sp SpareState.retired
  obtain ⟨hul, huf, hun⟩ := spareToAllocate_some hsort hu
  have h1 := fun j => spareState_set x sp j .retired { x with spares := tableSet x.spares sp .retired } rfl
  have hs := fun j => spareState_set { x with spares := tableSet x.spares sp .retired } u j .pending { x with
      spares := tableSet (tableSet x.spares sp .retired) u .pending
      remap := tableSet x.remap b { spare := u, state := .pending p m } } rfl
  simp only [h1] at hs huf hun
  refine f.change b (fun c hc => by simp only [tableGet_tableSet]; rw [if_neg hc]) (tableSet_sorted f.remap _ _)
    (tableSet_sorted hsort _ _) ?_ f.lost f.lostLength ?_ ?_ ?_ ?_ ?_
  · intro e he
    rcases tableSet_mem he with rfl | hm
    · exact ⟨hul, nofun⟩
    · exact listed_set f hlt (by decide) e hm
  · intro c hc
    have := f.unmapped c hc
    simp only [tableGet_tableSet]
    grind
  · intro j
    have := f.inUse_iff j
    rw [hs]
    simp only [heldBy, tableGet_tableSet, RemapEntry.Holds] at this ⊢
    grind
  · intro j
    simp only [heldBy, tableGet_tableSet, RemapEntry.Holds]
    grind
  · intro j
    have := f.pending_iff j
    have := hun j
    rw [hs]
    simp only [pendingBy, tableGet_tableSet] at *
    grind
  · exact fun _ _ _ => .inl ⟨_, hb, by simp⟩

/-- The spares once the switch of an entry with this spare and prior spare is applied (R29). -/
def switchedSpares (x : Xlat) (sp : Nat) (p : Option Nat) : List (Nat × SpareState) :=
  match p with
  | some t => tableSet (tableSet x.spares sp .inUse) t .retired
  | none => tableSet x.spares sp .inUse

/-- The switch of a completed image is applied (R29). -/
theorem switch (f : TablesFit x) {b sp : Nat} {p : Option Nat} {m : Bool}
    (hb : tableGet x.remap b = some { spare := sp, state := .pending p m }) :
    TablesFit { x with
      remap := tableSet x.remap b { spare := sp, state := .inUse }, spares := switchedSpares x sp p } := by
  have hsp := f.pendingSpare hb
  have hlt := f.lt (i := sp) (by rw [hsp]; decide)
  have hl := listed_set f hlt (v := .inUse) (by decide)
  have hsort := tableSet_sorted f.spares sp SpareState.inUse
  have h1 := fun (y : Xlat) (h : y.spares = tableSet x.spares sp .inUse) j => spareState_set x sp j .inUse y h
  cases p with
  | none =>
    have hs := h1 { x with remap := tableSet x.remap b { spare := sp, state := .inUse }, spares := switchedSpares x sp none } rfl
    refine f.change b (fun c hc => by simp only [tableGet_tableSet]; rw [if_neg hc]) (tableSet_sorted f.remap _ _)
      hsort hl f.lost f.lostLength ?_ ?_ ?_ ?_ ?_
    · intro c hc
      have := f.unmapped c hc
      simp only [tableGet_tableSet]
      grind
    · intro j
      have := f.inUse_iff j
      rw [hs]
      simp only [heldBy, tableGet_tableSet, RemapEntry.Holds] at this ⊢
      grind
    · intro j
      simp only [heldBy, tableGet_tableSet, RemapEntry.Holds]
      grind
    · intro j
      have := f.pending_iff j
      rw [hs]
      simp only [pendingBy, tableGet_tableSet] at this ⊢
      grind
    · exact fun _ _ _ => .inl ⟨_, hb, by simp⟩
  | some t =>
    have ht : spareState x t = .inUse := (f.inUse t).2 ⟨b, _, hb, rfl⟩
    have htl := f.lt (i := t) (by rw [ht]; decide)
    have h2 := h1 { x with spares := tableSet x.spares sp .inUse } rfl
    have hs := fun j => spareState_set { x with spares := tableSet x.spares sp .inUse } t j .retired
      { x with remap := tableSet x.remap b { spare := sp, state := .inUse }, spares := switchedSpares x sp (some t) } rfl
    simp only [h2] at hs
    refine f.change b (fun c hc => by simp only [tableGet_tableSet]; rw [if_neg hc]) (tableSet_sorted f.remap _ _)
      (tableSet_sorted hsort _ _) ?_ f.lost f.lostLength ?_ ?_ ?_ ?_ ?_
    · intro e he
      rcases tableSet_mem he with rfl | hm
      · exact ⟨htl, nofun⟩
      · exact hl e hm
    · intro c hc
      have := f.unmapped c hc
      simp only [tableGet_tableSet]
      grind
    · intro j
      have := f.inUse_iff j
      rw [hs]
      simp only [heldBy, tableGet_tableSet, RemapEntry.Holds] at this ⊢
      grind
    · intro j
      simp only [heldBy, tableGet_tableSet, RemapEntry.Holds]
      grind
    · intro j
      have := f.pending_iff j
      rw [hs]
      simp only [pendingBy, tableGet_tableSet] at this ⊢
      grind
    · exact fun _ _ _ => .inl ⟨_, hb, by simp⟩

/-- A block without a remap entry joins the lost list (R34). -/
theorem lose (f : TablesFit x) {b : Nat} (hb : tableGet x.remap b = none) (hn : x.lost.length < Config.lostBlocks) :
    TablesFit { x with lost := insertRising x.lost b } :=
  { f with
    lost := rising_insert f.lost b
    lostLength := le_trans (insertRising_length _ _) hn
    unmapped := fun c hc => by
      rcases (mem_insertRising _ _ _).1 hc with rfl | hc
      · exact hb
      · exact f.unmapped c hc }

/-- A block with an IN_USE entry joins the lost list, and its spare retires (R34). -/
theorem loseMapped (f : TablesFit x) {b sp : Nat} (hb : tableGet x.remap b = some { spare := sp, state := .inUse })
    (hn : x.lost.length < Config.lostBlocks) :
    TablesFit { x with
      lost := insertRising x.lost b, remap := tableErase x.remap b, spares := tableSet x.spares sp .retired } := by
  have hsp : spareState x sp = .inUse := (f.inUse sp).2 ⟨b, _, hb, rfl⟩
  have hlt := f.lt (i := sp) (by rw [hsp]; decide)
  have hs := fun j => spareState_set x sp j .retired { x with
      lost := insertRising x.lost b, remap := tableErase x.remap b, spares := tableSet x.spares sp .retired } rfl
  refine f.change b (fun c hc => by simp only [tableGet_tableErase]; rw [if_neg hc]) (tableErase_sorted f.remap _)
    (tableSet_sorted f.spares _ _) (listed_set f hlt (by decide)) (rising_insert f.lost b)
    (le_trans (insertRising_length _ _) hn) ?_ ?_ ?_ ?_ ?_
  · intro c hc
    simp only [tableGet_tableErase]
    rcases (mem_insertRising _ _ _).1 hc with rfl | hc
    · simp
    · have := f.unmapped c hc
      grind
  · intro j
    have := f.inUse_iff j
    rw [hs]
    simp only [heldBy, tableGet_tableErase, RemapEntry.Holds] at this ⊢
    grind
  · intro j
    simp only [heldBy, tableGet_tableErase, RemapEntry.Holds]
    grind
  · intro j
    have := f.pending_iff j
    rw [hs]
    simp only [pendingBy, tableGet_tableErase] at this ⊢
    grind
  · intro e he
    simp only [tableGet_tableErase] at he
    simp at he

end TablesFit

/-! ## Loading an image -/

theorem tableGet_map {α β : Type} (t : List (Nat × α)) (g : α → β) (k : Nat) :
    tableGet (t.map fun e => (e.1, g e.2)) k = (tableGet t k).map g := by
  induction t with
  | nil => rfl
  | cons p rest ih =>
    obtain ⟨j, a⟩ := p
    simp only [List.map_cons, tableGet]
    split
    · rfl
    · exact ih

theorem tableSorted_map {α β : Type} {t : List (Nat × α)} (h : tableSorted t = true) (g : α → β) :
    tableSorted (t.map fun e => (e.1, g e.2)) = true := by
  induction t with
  | nil => rfl
  | cons p rest ih =>
    refine tableSorted_cons (ih (tableSorted_tail h)) ?_
    intro q hq
    obtain ⟨r, hr, rfl⟩ := List.mem_map.1 hq
    exact tableSorted_lt h r hr

/-- The tables set from a valid image (R128, R142). -/
theorem TablesFit.load {x : Xlat} {nb : Nat} {i : FieldImage} (h : imageValid nb i = true)
    (hr : x.remap = i.remap.map fun e => (e.1, { spare := e.2, state := .inUse }))
    (hs : x.spares = i.spares) (hl : x.lost = i.lost) : TablesFit x := by
  simp only [imageValid, sparesAgree, sparesInRange, Bool.and_eq_true, decide_eq_true_eq, List.all_eq_true, Bool.or_eq_true,
    List.any_eq_true, Option.isNone_iff_eq_none] at h
  obtain ⟨⟨⟨⟨⟨⟨⟨⟨_, _⟩, hlen⟩, hsort⟩, hb⟩, ⟨⟨hnd, hall⟩, hany⟩⟩, ⟨hss, hsl⟩⟩, hrise⟩, hlost⟩ := h
  have hg : ∀ b, tableGet x.remap b = (tableGet i.remap b).map fun sp => { spare := sp, state := .inUse } := by
    intro b; rw [hr]; exact tableGet_map i.remap (fun sp => ({ spare := sp, state := .inUse } : RemapEntry)) b
  have hst : ∀ b e, tableGet x.remap b = some e → e.state = .inUse ∧ tableGet i.remap b = some e.spare := by
    intro b e he
    rw [hg] at he
    cases hq : tableGet i.remap b with
    | none => simp [hq] at he
    | some sp => simp [hq] at he; subst he; exact ⟨rfl, rfl⟩
  have hσ : ∀ j, spareState x j = (tableGet i.spares j).getD .free := by intro j; unfold spareState; rw [hs]
  have hH : ∀ b e j, tableGet x.remap b = some e → (e.Holds j ↔ e.spare = j) := by
    intro b e j he
    unfold RemapEntry.Holds
    rw [(hst b e he).1]
  refine ⟨?_, by rw [hs]; exact hss, ?_, by rw [hl]; exact hrise, by rw [hl]; exact hlen, ?_, ?_, ?_, ?_, ?_⟩
  · rw [hr]; exact tableSorted_map hsort fun sp => ({ spare := sp, state := .inUse } : RemapEntry)
  · rw [hs]; intro e he; exact (hsl e he).1
  · rw [hl]
    intro b hbl
    rw [hg, (hlost b hbl).2]
    rfl
  · intro j
    constructor
    · intro h
      rw [hσ] at h
      cases hq : tableGet i.spares j with
      | none => simp [hq] at h
      | some v =>
        simp [hq] at h
        subst h
        rcases hany _ (tableGet_mem hq) with hne | ⟨r, hr1, hr2⟩
        · simp at hne
        · refine ⟨r.1, { spare := r.2, state := .inUse }, ?_, hr2⟩
          rw [hg, tableGet_of_mem hsort (k := r.1) (a := r.2) hr1]
          rfl
    · rintro ⟨b, e, he, hh⟩
      have h2 := (hH b e j he).1 hh
      subst h2
      rw [hσ, hall _ (tableGet_mem (hst b e he).2)]
      rfl
  · intro b c e g j he hg' h1 h2
    have h1 := (hH b e j he).1 h1
    have h2 := (hH c g j hg').1 h2
    have m1 := tableGet_mem (hst b e he).2
    have m2 := tableGet_mem (hst c g hg').2
    have := List.inj_on_of_nodup_map hnd m1 m2 (by simp [h1, h2])
    simpa using congrArg Prod.fst this
  · intro j
    constructor
    · intro h
      rw [hσ] at h
      cases hq : tableGet i.spares j with
      | none => simp [hq] at h
      | some v =>
        simp [hq] at h
        subst h
        exact absurd rfl (hsl _ (tableGet_mem hq)).2
    · rintro ⟨b, p, m, h⟩
      have := (hst _ _ h).1
      cases this
  · intro b c e g he hg' h1
    exact absurd (hst _ _ he).1 h1

/-- The tables set from the empty image (R143). -/
theorem TablesFit.empty {x : Xlat} (hr : x.remap = []) (hs : x.spares = []) (hl : x.lost = []) : TablesFit x := by
  refine ⟨by rw [hr]; rfl, by rw [hs]; rfl, by simp [hs], by rw [hl]; rfl, by simp [hl], by simp [hl], ?_, ?_, ?_, ?_⟩ <;>
    simp [hr, hs, spareState, tableGet]

end Sys2Proof.Machine
end

