-- ==== Sys2Proof/Laws/State.lean ====
section
/-! SUPPORT. Each field after each update of one part of the state. -/

namespace Sys2Proof.Machine

section
variable (s : State) (x : Pins)
@[simp] theorem State.setPins_pins : (s.setPins x).pins = x := rfl
@[simp] theorem State.setPins_port : (s.setPins x).port = s.port := rfl
@[simp] theorem State.setPins_array : (s.setPins x).array = s.array := rfl
@[simp] theorem State.setPins_xlat : (s.setPins x).xlat = s.xlat := rfl
@[simp] theorem State.setPins_staging : (s.setPins x).staging = s.staging := rfl
@[simp] theorem State.setPins_host : (s.setPins x).host = s.host := rfl
@[simp] theorem State.setPins_watch : (s.setPins x).watch = s.watch := rfl
@[simp] theorem State.setPins_reloc : (s.setPins x).reloc = s.reloc := rfl
@[simp] theorem State.setPins_commit : (s.setPins x).commit = s.commit := rfl
@[simp] theorem State.setPins_loader : (s.setPins x).loader = s.loader := rfl
@[simp] theorem State.setPins_patrol : (s.setPins x).patrol = s.patrol := rfl
@[simp] theorem State.setPins_health : (s.setPins x).health = s.health := rfl
@[simp] theorem State.setPins_log : (s.setPins x).log = s.log := rfl
@[simp] theorem State.setPins_link : (s.setPins x).link = s.link := rfl
@[simp] theorem State.setPins_deliveries : (s.setPins x).deliveries = s.deliveries := rfl
@[simp] theorem State.setPins_posted : (s.setPins x).posted = s.posted := rfl
@[simp] theorem State.setPins_freeCount : (s.setPins x).freeCount = s.freeCount := rfl
@[simp] theorem State.setPins_pending : (s.setPins x).pending = s.pending := rfl
@[simp] theorem State.setPins_same : s.setPins s.pins = s := rfl
end

section
variable (s : State) (x : MediaPort)
@[simp] theorem State.setPort_pins : (s.setPort x).pins = s.pins := rfl
@[simp] theorem State.setPort_port : (s.setPort x).port = x := rfl
@[simp] theorem State.setPort_array : (s.setPort x).array = s.array := rfl
@[simp] theorem State.setPort_xlat : (s.setPort x).xlat = s.xlat := rfl
@[simp] theorem State.setPort_staging : (s.setPort x).staging = s.staging := rfl
@[simp] theorem State.setPort_host : (s.setPort x).host = s.host := rfl
@[simp] theorem State.setPort_watch : (s.setPort x).watch = s.watch := rfl
@[simp] theorem State.setPort_reloc : (s.setPort x).reloc = s.reloc := rfl
@[simp] theorem State.setPort_commit : (s.setPort x).commit = s.commit := rfl
@[simp] theorem State.setPort_loader : (s.setPort x).loader = s.loader := rfl
@[simp] theorem State.setPort_patrol : (s.setPort x).patrol = s.patrol := rfl
@[simp] theorem State.setPort_health : (s.setPort x).health = s.health := rfl
@[simp] theorem State.setPort_log : (s.setPort x).log = s.log := rfl
@[simp] theorem State.setPort_link : (s.setPort x).link = s.link := rfl
@[simp] theorem State.setPort_deliveries : (s.setPort x).deliveries = s.deliveries := rfl
@[simp] theorem State.setPort_posted : (s.setPort x).posted = s.posted := rfl
@[simp] theorem State.setPort_freeCount : (s.setPort x).freeCount = s.freeCount := rfl
@[simp] theorem State.setPort_pending : (s.setPort x).pending = s.pending := rfl
@[simp] theorem State.setPort_same : s.setPort s.port = s := rfl
end

section
variable (s : State) (x : ArrayState)
@[simp] theorem State.setArray_pins : (s.setArray x).pins = s.pins := rfl
@[simp] theorem State.setArray_port : (s.setArray x).port = s.port := rfl
@[simp] theorem State.setArray_array : (s.setArray x).array = x := rfl
@[simp] theorem State.setArray_xlat : (s.setArray x).xlat = s.xlat := rfl
@[simp] theorem State.setArray_staging : (s.setArray x).staging = s.staging := rfl
@[simp] theorem State.setArray_host : (s.setArray x).host = s.host := rfl
@[simp] theorem State.setArray_watch : (s.setArray x).watch = s.watch := rfl
@[simp] theorem State.setArray_reloc : (s.setArray x).reloc = s.reloc := rfl
@[simp] theorem State.setArray_commit : (s.setArray x).commit = s.commit := rfl
@[simp] theorem State.setArray_loader : (s.setArray x).loader = s.loader := rfl
@[simp] theorem State.setArray_patrol : (s.setArray x).patrol = s.patrol := rfl
@[simp] theorem State.setArray_health : (s.setArray x).health = s.health := rfl
@[simp] theorem State.setArray_log : (s.setArray x).log = s.log := rfl
@[simp] theorem State.setArray_link : (s.setArray x).link = s.link := rfl
@[simp] theorem State.setArray_deliveries : (s.setArray x).deliveries = s.deliveries := rfl
@[simp] theorem State.setArray_posted : (s.setArray x).posted = s.posted := rfl
@[simp] theorem State.setArray_freeCount : (s.setArray x).freeCount = s.freeCount := rfl
@[simp] theorem State.setArray_pending : (s.setArray x).pending = s.pending := rfl
@[simp] theorem State.setArray_same : s.setArray s.array = s := rfl
end

section
variable (s : State) (x : Xlat)
@[simp] theorem State.setXlat_pins : (s.setXlat x).pins = s.pins := rfl
@[simp] theorem State.setXlat_port : (s.setXlat x).port = s.port := rfl
@[simp] theorem State.setXlat_array : (s.setXlat x).array = s.array := rfl
@[simp] theorem State.setXlat_xlat : (s.setXlat x).xlat = x := rfl
@[simp] theorem State.setXlat_staging : (s.setXlat x).staging = s.staging := rfl
@[simp] theorem State.setXlat_host : (s.setXlat x).host = s.host := rfl
@[simp] theorem State.setXlat_watch : (s.setXlat x).watch = s.watch := rfl
@[simp] theorem State.setXlat_reloc : (s.setXlat x).reloc = s.reloc := rfl
@[simp] theorem State.setXlat_commit : (s.setXlat x).commit = s.commit := rfl
@[simp] theorem State.setXlat_loader : (s.setXlat x).loader = s.loader := rfl
@[simp] theorem State.setXlat_patrol : (s.setXlat x).patrol = s.patrol := rfl
@[simp] theorem State.setXlat_health : (s.setXlat x).health = s.health := rfl
@[simp] theorem State.setXlat_log : (s.setXlat x).log = s.log := rfl
@[simp] theorem State.setXlat_link : (s.setXlat x).link = s.link := rfl
@[simp] theorem State.setXlat_deliveries : (s.setXlat x).deliveries = s.deliveries := rfl
@[simp] theorem State.setXlat_posted : (s.setXlat x).posted = s.posted := rfl
@[simp] theorem State.setXlat_freeCount : (s.setXlat x).freeCount = s.freeCount := rfl
@[simp] theorem State.setXlat_pending : (s.setXlat x).pending = s.pending := rfl
@[simp] theorem State.setXlat_same : s.setXlat s.xlat = s := rfl
end

section
variable (s : State) (x : Staging)
@[simp] theorem State.setStaging_pins : (s.setStaging x).pins = s.pins := rfl
@[simp] theorem State.setStaging_port : (s.setStaging x).port = s.port := rfl
@[simp] theorem State.setStaging_array : (s.setStaging x).array = s.array := rfl
@[simp] theorem State.setStaging_xlat : (s.setStaging x).xlat = s.xlat := rfl
@[simp] theorem State.setStaging_staging : (s.setStaging x).staging = x := rfl
@[simp] theorem State.setStaging_host : (s.setStaging x).host = s.host := rfl
@[simp] theorem State.setStaging_watch : (s.setStaging x).watch = s.watch := rfl
@[simp] theorem State.setStaging_reloc : (s.setStaging x).reloc = s.reloc := rfl
@[simp] theorem State.setStaging_commit : (s.setStaging x).commit = s.commit := rfl
@[simp] theorem State.setStaging_loader : (s.setStaging x).loader = s.loader := rfl
@[simp] theorem State.setStaging_patrol : (s.setStaging x).patrol = s.patrol := rfl
@[simp] theorem State.setStaging_health : (s.setStaging x).health = s.health := rfl
@[simp] theorem State.setStaging_log : (s.setStaging x).log = s.log := rfl
@[simp] theorem State.setStaging_link : (s.setStaging x).link = s.link := rfl
@[simp] theorem State.setStaging_deliveries : (s.setStaging x).deliveries = s.deliveries := rfl
@[simp] theorem State.setStaging_posted : (s.setStaging x).posted = s.posted := rfl
@[simp] theorem State.setStaging_freeCount : (s.setStaging x).freeCount = s.freeCount := rfl
@[simp] theorem State.setStaging_pending : (s.setStaging x).pending = s.pending := rfl
@[simp] theorem State.setStaging_same : s.setStaging s.staging = s := rfl
end

section
variable (s : State) (x : HostPort)
@[simp] theorem State.setHost_pins : (s.setHost x).pins = s.pins := rfl
@[simp] theorem State.setHost_port : (s.setHost x).port = s.port := rfl
@[simp] theorem State.setHost_array : (s.setHost x).array = s.array := rfl
@[simp] theorem State.setHost_xlat : (s.setHost x).xlat = s.xlat := rfl
@[simp] theorem State.setHost_staging : (s.setHost x).staging = s.staging := rfl
@[simp] theorem State.setHost_host : (s.setHost x).host = x := rfl
@[simp] theorem State.setHost_watch : (s.setHost x).watch = s.watch := rfl
@[simp] theorem State.setHost_reloc : (s.setHost x).reloc = s.reloc := rfl
@[simp] theorem State.setHost_commit : (s.setHost x).commit = s.commit := rfl
@[simp] theorem State.setHost_loader : (s.setHost x).loader = s.loader := rfl
@[simp] theorem State.setHost_patrol : (s.setHost x).patrol = s.patrol := rfl
@[simp] theorem State.setHost_health : (s.setHost x).health = s.health := rfl
@[simp] theorem State.setHost_log : (s.setHost x).log = s.log := rfl
@[simp] theorem State.setHost_link : (s.setHost x).link = s.link := rfl
@[simp] theorem State.setHost_deliveries : (s.setHost x).deliveries = s.deliveries := rfl
@[simp] theorem State.setHost_posted : (s.setHost x).posted = s.posted := rfl
@[simp] theorem State.setHost_freeCount : (s.setHost x).freeCount = s.freeCount := rfl
@[simp] theorem State.setHost_pending : (s.setHost x).pending = s.pending := rfl
@[simp] theorem State.setHost_same : s.setHost s.host = s := rfl
end

section
variable (s : State) (x : Watch)
@[simp] theorem State.setWatch_pins : (s.setWatch x).pins = s.pins := rfl
@[simp] theorem State.setWatch_port : (s.setWatch x).port = s.port := rfl
@[simp] theorem State.setWatch_array : (s.setWatch x).array = s.array := rfl
@[simp] theorem State.setWatch_xlat : (s.setWatch x).xlat = s.xlat := rfl
@[simp] theorem State.setWatch_staging : (s.setWatch x).staging = s.staging := rfl
@[simp] theorem State.setWatch_host : (s.setWatch x).host = s.host := rfl
@[simp] theorem State.setWatch_watch : (s.setWatch x).watch = x := rfl
@[simp] theorem State.setWatch_reloc : (s.setWatch x).reloc = s.reloc := rfl
@[simp] theorem State.setWatch_commit : (s.setWatch x).commit = s.commit := rfl
@[simp] theorem State.setWatch_loader : (s.setWatch x).loader = s.loader := rfl
@[simp] theorem State.setWatch_patrol : (s.setWatch x).patrol = s.patrol := rfl
@[simp] theorem State.setWatch_health : (s.setWatch x).health = s.health := rfl
@[simp] theorem State.setWatch_log : (s.setWatch x).log = s.log := rfl
@[simp] theorem State.setWatch_link : (s.setWatch x).link = s.link := rfl
@[simp] theorem State.setWatch_deliveries : (s.setWatch x).deliveries = s.deliveries := rfl
@[simp] theorem State.setWatch_posted : (s.setWatch x).posted = s.posted := rfl
@[simp] theorem State.setWatch_freeCount : (s.setWatch x).freeCount = s.freeCount := rfl
@[simp] theorem State.setWatch_pending : (s.setWatch x).pending = s.pending := rfl
@[simp] theorem State.setWatch_same : s.setWatch s.watch = s := rfl
end

section
variable (s : State) (x : Reloc)
@[simp] theorem State.setReloc_pins : (s.setReloc x).pins = s.pins := rfl
@[simp] theorem State.setReloc_port : (s.setReloc x).port = s.port := rfl
@[simp] theorem State.setReloc_array : (s.setReloc x).array = s.array := rfl
@[simp] theorem State.setReloc_xlat : (s.setReloc x).xlat = s.xlat := rfl
@[simp] theorem State.setReloc_staging : (s.setReloc x).staging = s.staging := rfl
@[simp] theorem State.setReloc_host : (s.setReloc x).host = s.host := rfl
@[simp] theorem State.setReloc_watch : (s.setReloc x).watch = s.watch := rfl
@[simp] theorem State.setReloc_reloc : (s.setReloc x).reloc = x := rfl
@[simp] theorem State.setReloc_commit : (s.setReloc x).commit = s.commit := rfl
@[simp] theorem State.setReloc_loader : (s.setReloc x).loader = s.loader := rfl
@[simp] theorem State.setReloc_patrol : (s.setReloc x).patrol = s.patrol := rfl
@[simp] theorem State.setReloc_health : (s.setReloc x).health = s.health := rfl
@[simp] theorem State.setReloc_log : (s.setReloc x).log = s.log := rfl
@[simp] theorem State.setReloc_link : (s.setReloc x).link = s.link := rfl
@[simp] theorem State.setReloc_deliveries : (s.setReloc x).deliveries = s.deliveries := rfl
@[simp] theorem State.setReloc_posted : (s.setReloc x).posted = s.posted := rfl
@[simp] theorem State.setReloc_freeCount : (s.setReloc x).freeCount = s.freeCount := rfl
@[simp] theorem State.setReloc_pending : (s.setReloc x).pending = s.pending := rfl
@[simp] theorem State.setReloc_same : s.setReloc s.reloc = s := rfl
end

section
variable (s : State) (x : CommitUnit)
@[simp] theorem State.setCommit_pins : (s.setCommit x).pins = s.pins := rfl
@[simp] theorem State.setCommit_port : (s.setCommit x).port = s.port := rfl
@[simp] theorem State.setCommit_array : (s.setCommit x).array = s.array := rfl
@[simp] theorem State.setCommit_xlat : (s.setCommit x).xlat = s.xlat := rfl
@[simp] theorem State.setCommit_staging : (s.setCommit x).staging = s.staging := rfl
@[simp] theorem State.setCommit_host : (s.setCommit x).host = s.host := rfl
@[simp] theorem State.setCommit_watch : (s.setCommit x).watch = s.watch := rfl
@[simp] theorem State.setCommit_reloc : (s.setCommit x).reloc = s.reloc := rfl
@[simp] theorem State.setCommit_commit : (s.setCommit x).commit = x := rfl
@[simp] theorem State.setCommit_loader : (s.setCommit x).loader = s.loader := rfl
@[simp] theorem State.setCommit_patrol : (s.setCommit x).patrol = s.patrol := rfl
@[simp] theorem State.setCommit_health : (s.setCommit x).health = s.health := rfl
@[simp] theorem State.setCommit_log : (s.setCommit x).log = s.log := rfl
@[simp] theorem State.setCommit_link : (s.setCommit x).link = s.link := rfl
@[simp] theorem State.setCommit_deliveries : (s.setCommit x).deliveries = s.deliveries := rfl
@[simp] theorem State.setCommit_posted : (s.setCommit x).posted = s.posted := rfl
@[simp] theorem State.setCommit_freeCount : (s.setCommit x).freeCount = s.freeCount := rfl
@[simp] theorem State.setCommit_pending : (s.setCommit x).pending = s.pending := rfl
@[simp] theorem State.setCommit_same : s.setCommit s.commit = s := rfl
end

section
variable (s : State) (x : Loader)
@[simp] theorem State.setLoader_pins : (s.setLoader x).pins = s.pins := rfl
@[simp] theorem State.setLoader_port : (s.setLoader x).port = s.port := rfl
@[simp] theorem State.setLoader_array : (s.setLoader x).array = s.array := rfl
@[simp] theorem State.setLoader_xlat : (s.setLoader x).xlat = s.xlat := rfl
@[simp] theorem State.setLoader_staging : (s.setLoader x).staging = s.staging := rfl
@[simp] theorem State.setLoader_host : (s.setLoader x).host = s.host := rfl
@[simp] theorem State.setLoader_watch : (s.setLoader x).watch = s.watch := rfl
@[simp] theorem State.setLoader_reloc : (s.setLoader x).reloc = s.reloc := rfl
@[simp] theorem State.setLoader_commit : (s.setLoader x).commit = s.commit := rfl
@[simp] theorem State.setLoader_loader : (s.setLoader x).loader = x := rfl
@[simp] theorem State.setLoader_patrol : (s.setLoader x).patrol = s.patrol := rfl
@[simp] theorem State.setLoader_health : (s.setLoader x).health = s.health := rfl
@[simp] theorem State.setLoader_log : (s.setLoader x).log = s.log := rfl
@[simp] theorem State.setLoader_link : (s.setLoader x).link = s.link := rfl
@[simp] theorem State.setLoader_deliveries : (s.setLoader x).deliveries = s.deliveries := rfl
@[simp] theorem State.setLoader_posted : (s.setLoader x).posted = s.posted := rfl
@[simp] theorem State.setLoader_freeCount : (s.setLoader x).freeCount = s.freeCount := rfl
@[simp] theorem State.setLoader_pending : (s.setLoader x).pending = s.pending := rfl
@[simp] theorem State.setLoader_same : s.setLoader s.loader = s := rfl
end

section
variable (s : State) (x : Patrol)
@[simp] theorem State.setPatrol_pins : (s.setPatrol x).pins = s.pins := rfl
@[simp] theorem State.setPatrol_port : (s.setPatrol x).port = s.port := rfl
@[simp] theorem State.setPatrol_array : (s.setPatrol x).array = s.array := rfl
@[simp] theorem State.setPatrol_xlat : (s.setPatrol x).xlat = s.xlat := rfl
@[simp] theorem State.setPatrol_staging : (s.setPatrol x).staging = s.staging := rfl
@[simp] theorem State.setPatrol_host : (s.setPatrol x).host = s.host := rfl
@[simp] theorem State.setPatrol_watch : (s.setPatrol x).watch = s.watch := rfl
@[simp] theorem State.setPatrol_reloc : (s.setPatrol x).reloc = s.reloc := rfl
@[simp] theorem State.setPatrol_commit : (s.setPatrol x).commit = s.commit := rfl
@[simp] theorem State.setPatrol_loader : (s.setPatrol x).loader = s.loader := rfl
@[simp] theorem State.setPatrol_patrol : (s.setPatrol x).patrol = x := rfl
@[simp] theorem State.setPatrol_health : (s.setPatrol x).health = s.health := rfl
@[simp] theorem State.setPatrol_log : (s.setPatrol x).log = s.log := rfl
@[simp] theorem State.setPatrol_link : (s.setPatrol x).link = s.link := rfl
@[simp] theorem State.setPatrol_deliveries : (s.setPatrol x).deliveries = s.deliveries := rfl
@[simp] theorem State.setPatrol_posted : (s.setPatrol x).posted = s.posted := rfl
@[simp] theorem State.setPatrol_freeCount : (s.setPatrol x).freeCount = s.freeCount := rfl
@[simp] theorem State.setPatrol_pending : (s.setPatrol x).pending = s.pending := rfl
@[simp] theorem State.setPatrol_same : s.setPatrol s.patrol = s := rfl
end

section
variable (s : State) (x : HealthBlock)
@[simp] theorem State.setHealth_pins : (s.setHealth x).pins = s.pins := rfl
@[simp] theorem State.setHealth_port : (s.setHealth x).port = s.port := rfl
@[simp] theorem State.setHealth_array : (s.setHealth x).array = s.array := rfl
@[simp] theorem State.setHealth_xlat : (s.setHealth x).xlat = s.xlat := rfl
@[simp] theorem State.setHealth_staging : (s.setHealth x).staging = s.staging := rfl
@[simp] theorem State.setHealth_host : (s.setHealth x).host = s.host := rfl
@[simp] theorem State.setHealth_watch : (s.setHealth x).watch = s.watch := rfl
@[simp] theorem State.setHealth_reloc : (s.setHealth x).reloc = s.reloc := rfl
@[simp] theorem State.setHealth_commit : (s.setHealth x).commit = s.commit := rfl
@[simp] theorem State.setHealth_loader : (s.setHealth x).loader = s.loader := rfl
@[simp] theorem State.setHealth_patrol : (s.setHealth x).patrol = s.patrol := rfl
@[simp] theorem State.setHealth_health : (s.setHealth x).health = x := rfl
@[simp] theorem State.setHealth_log : (s.setHealth x).log = s.log := rfl
@[simp] theorem State.setHealth_link : (s.setHealth x).link = s.link := rfl
@[simp] theorem State.setHealth_deliveries : (s.setHealth x).deliveries = s.deliveries := rfl
@[simp] theorem State.setHealth_posted : (s.setHealth x).posted = s.posted := rfl
@[simp] theorem State.setHealth_freeCount : (s.setHealth x).freeCount = s.freeCount := rfl
@[simp] theorem State.setHealth_pending : (s.setHealth x).pending = s.pending := rfl
@[simp] theorem State.setHealth_same : s.setHealth s.health = s := rfl
end

section
variable (s : State) (x : EventLog)
@[simp] theorem State.setLog_pins : (s.setLog x).pins = s.pins := rfl
@[simp] theorem State.setLog_port : (s.setLog x).port = s.port := rfl
@[simp] theorem State.setLog_array : (s.setLog x).array = s.array := rfl
@[simp] theorem State.setLog_xlat : (s.setLog x).xlat = s.xlat := rfl
@[simp] theorem State.setLog_staging : (s.setLog x).staging = s.staging := rfl
@[simp] theorem State.setLog_host : (s.setLog x).host = s.host := rfl
@[simp] theorem State.setLog_watch : (s.setLog x).watch = s.watch := rfl
@[simp] theorem State.setLog_reloc : (s.setLog x).reloc = s.reloc := rfl
@[simp] theorem State.setLog_commit : (s.setLog x).commit = s.commit := rfl
@[simp] theorem State.setLog_loader : (s.setLog x).loader = s.loader := rfl
@[simp] theorem State.setLog_patrol : (s.setLog x).patrol = s.patrol := rfl
@[simp] theorem State.setLog_health : (s.setLog x).health = s.health := rfl
@[simp] theorem State.setLog_log : (s.setLog x).log = x := rfl
@[simp] theorem State.setLog_link : (s.setLog x).link = s.link := rfl
@[simp] theorem State.setLog_deliveries : (s.setLog x).deliveries = s.deliveries := rfl
@[simp] theorem State.setLog_posted : (s.setLog x).posted = s.posted := rfl
@[simp] theorem State.setLog_freeCount : (s.setLog x).freeCount = s.freeCount := rfl
@[simp] theorem State.setLog_pending : (s.setLog x).pending = s.pending := rfl
@[simp] theorem State.setLog_same : s.setLog s.log = s := rfl
end

section
variable (s : State) (x : Link)
@[simp] theorem State.setLink_pins : (s.setLink x).pins = s.pins := rfl
@[simp] theorem State.setLink_port : (s.setLink x).port = s.port := rfl
@[simp] theorem State.setLink_array : (s.setLink x).array = s.array := rfl
@[simp] theorem State.setLink_xlat : (s.setLink x).xlat = s.xlat := rfl
@[simp] theorem State.setLink_staging : (s.setLink x).staging = s.staging := rfl
@[simp] theorem State.setLink_host : (s.setLink x).host = s.host := rfl
@[simp] theorem State.setLink_watch : (s.setLink x).watch = s.watch := rfl
@[simp] theorem State.setLink_reloc : (s.setLink x).reloc = s.reloc := rfl
@[simp] theorem State.setLink_commit : (s.setLink x).commit = s.commit := rfl
@[simp] theorem State.setLink_loader : (s.setLink x).loader = s.loader := rfl
@[simp] theorem State.setLink_patrol : (s.setLink x).patrol = s.patrol := rfl
@[simp] theorem State.setLink_health : (s.setLink x).health = s.health := rfl
@[simp] theorem State.setLink_log : (s.setLink x).log = s.log := rfl
@[simp] theorem State.setLink_link : (s.setLink x).link = x := rfl
@[simp] theorem State.setLink_deliveries : (s.setLink x).deliveries = s.deliveries := rfl
@[simp] theorem State.setLink_posted : (s.setLink x).posted = s.posted := rfl
@[simp] theorem State.setLink_freeCount : (s.setLink x).freeCount = s.freeCount := rfl
@[simp] theorem State.setLink_pending : (s.setLink x).pending = s.pending := rfl
@[simp] theorem State.setLink_same : s.setLink s.link = s := rfl
end

section
variable (s : State) (x : List Delivery)
@[simp] theorem State.setDeliveries_pins : (s.setDeliveries x).pins = s.pins := rfl
@[simp] theorem State.setDeliveries_port : (s.setDeliveries x).port = s.port := rfl
@[simp] theorem State.setDeliveries_array : (s.setDeliveries x).array = s.array := rfl
@[simp] theorem State.setDeliveries_xlat : (s.setDeliveries x).xlat = s.xlat := rfl
@[simp] theorem State.setDeliveries_staging : (s.setDeliveries x).staging = s.staging := rfl
@[simp] theorem State.setDeliveries_host : (s.setDeliveries x).host = s.host := rfl
@[simp] theorem State.setDeliveries_watch : (s.setDeliveries x).watch = s.watch := rfl
@[simp] theorem State.setDeliveries_reloc : (s.setDeliveries x).reloc = s.reloc := rfl
@[simp] theorem State.setDeliveries_commit : (s.setDeliveries x).commit = s.commit := rfl
@[simp] theorem State.setDeliveries_loader : (s.setDeliveries x).loader = s.loader := rfl
@[simp] theorem State.setDeliveries_patrol : (s.setDeliveries x).patrol = s.patrol := rfl
@[simp] theorem State.setDeliveries_health : (s.setDeliveries x).health = s.health := rfl
@[simp] theorem State.setDeliveries_log : (s.setDeliveries x).log = s.log := rfl
@[simp] theorem State.setDeliveries_link : (s.setDeliveries x).link = s.link := rfl
@[simp] theorem State.setDeliveries_deliveries : (s.setDeliveries x).deliveries = x := rfl
@[simp] theorem State.setDeliveries_posted : (s.setDeliveries x).posted = s.posted := rfl
@[simp] theorem State.setDeliveries_freeCount : (s.setDeliveries x).freeCount = s.freeCount := rfl
@[simp] theorem State.setDeliveries_pending : (s.setDeliveries x).pending = s.pending := rfl
@[simp] theorem State.setDeliveries_same : s.setDeliveries s.deliveries = s := rfl
end

section
variable (s : State) (x : List Instr)
@[simp] theorem State.setPosted_pins : (s.setPosted x).pins = s.pins := rfl
@[simp] theorem State.setPosted_port : (s.setPosted x).port = s.port := rfl
@[simp] theorem State.setPosted_array : (s.setPosted x).array = s.array := rfl
@[simp] theorem State.setPosted_xlat : (s.setPosted x).xlat = s.xlat := rfl
@[simp] theorem State.setPosted_staging : (s.setPosted x).staging = s.staging := rfl
@[simp] theorem State.setPosted_host : (s.setPosted x).host = s.host := rfl
@[simp] theorem State.setPosted_watch : (s.setPosted x).watch = s.watch := rfl
@[simp] theorem State.setPosted_reloc : (s.setPosted x).reloc = s.reloc := rfl
@[simp] theorem State.setPosted_commit : (s.setPosted x).commit = s.commit := rfl
@[simp] theorem State.setPosted_loader : (s.setPosted x).loader = s.loader := rfl
@[simp] theorem State.setPosted_patrol : (s.setPosted x).patrol = s.patrol := rfl
@[simp] theorem State.setPosted_health : (s.setPosted x).health = s.health := rfl
@[simp] theorem State.setPosted_log : (s.setPosted x).log = s.log := rfl
@[simp] theorem State.setPosted_link : (s.setPosted x).link = s.link := rfl
@[simp] theorem State.setPosted_deliveries : (s.setPosted x).deliveries = s.deliveries := rfl
@[simp] theorem State.setPosted_posted : (s.setPosted x).posted = x := rfl
@[simp] theorem State.setPosted_freeCount : (s.setPosted x).freeCount = s.freeCount := rfl
@[simp] theorem State.setPosted_pending : (s.setPosted x).pending = s.pending := rfl
@[simp] theorem State.setPosted_same : s.setPosted s.posted = s := rfl
end

section
variable (s : State) (x : Nat)
@[simp] theorem State.setFreeCount_pins : (s.setFreeCount x).pins = s.pins := rfl
@[simp] theorem State.setFreeCount_port : (s.setFreeCount x).port = s.port := rfl
@[simp] theorem State.setFreeCount_array : (s.setFreeCount x).array = s.array := rfl
@[simp] theorem State.setFreeCount_xlat : (s.setFreeCount x).xlat = s.xlat := rfl
@[simp] theorem State.setFreeCount_staging : (s.setFreeCount x).staging = s.staging := rfl
@[simp] theorem State.setFreeCount_host : (s.setFreeCount x).host = s.host := rfl
@[simp] theorem State.setFreeCount_watch : (s.setFreeCount x).watch = s.watch := rfl
@[simp] theorem State.setFreeCount_reloc : (s.setFreeCount x).reloc = s.reloc := rfl
@[simp] theorem State.setFreeCount_commit : (s.setFreeCount x).commit = s.commit := rfl
@[simp] theorem State.setFreeCount_loader : (s.setFreeCount x).loader = s.loader := rfl
@[simp] theorem State.setFreeCount_patrol : (s.setFreeCount x).patrol = s.patrol := rfl
@[simp] theorem State.setFreeCount_health : (s.setFreeCount x).health = s.health := rfl
@[simp] theorem State.setFreeCount_log : (s.setFreeCount x).log = s.log := rfl
@[simp] theorem State.setFreeCount_link : (s.setFreeCount x).link = s.link := rfl
@[simp] theorem State.setFreeCount_deliveries : (s.setFreeCount x).deliveries = s.deliveries := rfl
@[simp] theorem State.setFreeCount_posted : (s.setFreeCount x).posted = s.posted := rfl
@[simp] theorem State.setFreeCount_freeCount : (s.setFreeCount x).freeCount = x := rfl
@[simp] theorem State.setFreeCount_pending : (s.setFreeCount x).pending = s.pending := rfl
@[simp] theorem State.setFreeCount_same : s.setFreeCount s.freeCount = s := rfl
end

section
variable (s : State) (x : List Instr)
@[simp] theorem State.setPending_pins : (s.setPending x).pins = s.pins := rfl
@[simp] theorem State.setPending_port : (s.setPending x).port = s.port := rfl
@[simp] theorem State.setPending_array : (s.setPending x).array = s.array := rfl
@[simp] theorem State.setPending_xlat : (s.setPending x).xlat = s.xlat := rfl
@[simp] theorem State.setPending_staging : (s.setPending x).staging = s.staging := rfl
@[simp] theorem State.setPending_host : (s.setPending x).host = s.host := rfl
@[simp] theorem State.setPending_watch : (s.setPending x).watch = s.watch := rfl
@[simp] theorem State.setPending_reloc : (s.setPending x).reloc = s.reloc := rfl
@[simp] theorem State.setPending_commit : (s.setPending x).commit = s.commit := rfl
@[simp] theorem State.setPending_loader : (s.setPending x).loader = s.loader := rfl
@[simp] theorem State.setPending_patrol : (s.setPending x).patrol = s.patrol := rfl
@[simp] theorem State.setPending_health : (s.setPending x).health = s.health := rfl
@[simp] theorem State.setPending_log : (s.setPending x).log = s.log := rfl
@[simp] theorem State.setPending_link : (s.setPending x).link = s.link := rfl
@[simp] theorem State.setPending_deliveries : (s.setPending x).deliveries = s.deliveries := rfl
@[simp] theorem State.setPending_posted : (s.setPending x).posted = s.posted := rfl
@[simp] theorem State.setPending_freeCount : (s.setPending x).freeCount = s.freeCount := rfl
@[simp] theorem State.setPending_pending : (s.setPending x).pending = x := rfl
@[simp] theorem State.setPending_same : s.setPending s.pending = s := rfl
end

end Sys2Proof.Machine
end

