-- ==== Sys2Proof/Laws/Arbiter.lean ====
section
/-! SUPPORT. When the arbiter has no choice to make, and what it does with the offer it takes. -/

namespace Sys2Proof.Machine

/-- While the port is BUSY the arbiter chooses nothing. -/
theorem arbitrateFrom_busy {s : State} (n : Nat) (h : s.busy = true) : s.arbitrateFrom n = s := by
  cases n with
  | zero => rfl
  | succ n => unfold State.arbitrateFrom; rw [if_pos h]

theorem arbitrate_busy {s : State} (h : s.busy = true) : s.arbitrate = s := arbitrateFrom_busy _ h

/-- Without an offer the arbiter chooses nothing. -/
theorem arbitrate_no_offer {s : State} (h : s.choice = none) : s.arbitrate = s := by
  unfold State.arbitrate State.arbitrateFrom
  rw [h]
  split <;> rfl

/-- With no request in the channel, the port takes none. -/
theorem takeHeld_empty {s : State} (n : Nat) (h : s.host.channel = []) : s.takeHeld n = s := by
  cases n with
  | zero => rfl
  | succ n => unfold State.takeHeld; rw [h]

/-- While the port is BUSY and no request waits, a change of offers or occupancy is followed by nothing. -/
theorem settle_busy {s : State} (h : s.busy = true) (hc : s.host.channel = []) : s.settle = s := by
  unfold State.settle
  simp only [arbitrate_busy h]
  exact takeHeld_empty _ hc

@[simp] theorem busy_setXlat (s : State) (x : Xlat) : (s.setXlat x).busy = s.busy := rfl
@[simp] theorem busy_setStaging (s : State) (x : Staging) : (s.setStaging x).busy = s.busy := rfl
@[simp] theorem busy_setHost (s : State) (x : HostPort) : (s.setHost x).busy = s.busy := rfl
@[simp] theorem busy_setReloc (s : State) (x : Reloc) : (s.setReloc x).busy = s.busy := rfl
@[simp] theorem busy_setCommit (s : State) (x : CommitUnit) : (s.setCommit x).busy = s.busy := rfl
@[simp] theorem busy_setPosted (s : State) (x : List Instr) : (s.setPosted x).busy = s.busy := rfl
@[simp] theorem busy_setDeliveries (s : State) (x : List Delivery) : (s.setDeliveries x).busy = s.busy := rfl
@[simp] theorem busy_setLog (s : State) (x : EventLog) : (s.setLog x).busy = s.busy := rfl
@[simp] theorem busy_setHealth (s : State) (x : HealthBlock) : (s.setHealth x).busy = s.busy := rfl
@[simp] theorem busy_setPatrol (s : State) (x : Patrol) : (s.setPatrol x).busy = s.busy := rfl
@[simp] theorem busy_setWatch (s : State) (x : Watch) : (s.setWatch x).busy = s.busy := rfl
@[simp] theorem busy_setLink (s : State) (x : Link) : (s.setLink x).busy = s.busy := rfl
@[simp] theorem busy_setLoader (s : State) (x : Loader) : (s.setLoader x).busy = s.busy := rfl
@[simp] theorem busy_setFreeCount (s : State) (x : Nat) : (s.setFreeCount x).busy = s.busy := rfl

/-- The request at the head is taken, the arbiter chooses, and the port goes on with the rest of the channel. -/
theorem takeHeld_cons {s : State} {r : HostRequest} {rest : List HostRequest} (n : Nat)
    (h : s.host.channel = r :: rest) (hr : s.host.ready ≠ .inReset) (ht : s.canTake r = true) :
    s.takeHeld (n + 1) = (((s.setHost { s.host with channel := rest }).takeRequest r).arbitrate).takeHeld n := by
  rw [State.takeHeld, h]
  simp only [if_neg hr, ht, if_true]

/-- A request that the conditions of Table 4-2 admit, presented at an empty channel of a part whose port is BUSY, is taken,
and nothing follows. -/
theorem present_taken {s : State} (r : HostRequest) (hb : s.busy = true) (hc : s.host.channel = [])
    (ht : s.canTake r = true) (hb' : (s.takeRequest r).busy = true) : s.present r = s.takeRequest r := by
  have hr : s.host.ready ≠ .inReset := by
    intro e; simp [State.canTake, e] at ht
  have hset : (s.setHost { s.host with channel := s.host.channel ++ [r] }).busy = true := hb
  have hch : (s.setHost { s.host with channel := s.host.channel ++ [r] }).host.channel = [r] := by simp [hc]
  have hback : (s.setHost { s.host with channel := s.host.channel ++ [r] }).setHost
      { (s.setHost { s.host with channel := s.host.channel ++ [r] }).host with channel := [] } = s := by
    show s.setHost { s.host with channel := [] } = s
    rw [← hc]; rfl
  unfold State.present State.settle
  rw [arbitrate_busy hset]
  simp only [hch, List.length_singleton]
  rw [takeHeld_cons 0 hch hr ht, hback]
  exact arbitrate_busy hb'

/-! ## What the arbiter's choice leaves -/

/-- Where the arbiter has nothing to choose, it changes nothing. -/
theorem arbitrate_of_rests {s : State} (h : s.Rests) : s.arbitrate = s :=
  h.elim arbitrate_busy arbitrate_no_offer

theorem settle_of_quiet {s : State} (h : s.Quiet) : s.settle = s := by
  unfold State.settle
  simp only [arbitrate_of_rests h.1]
  exact takeHeld_empty _ h.2

/-- A chosen requester has an offer. -/
theorem choice_offers {s : State} {q : Requester} (h : s.choice = some q) : s.offers q = true := List.find?_some h

theorem issueOp_busy (s : State) (kind : OpKind) (q : Requester) (p l : Nat) (b : Option Nat)
    (x : Option (LineContent × Bool)) : (s.issueOp kind q p l b x).busy = true := rfl

/-- After the choice the port is BUSY or no offer stands, if the bound covers the host reads. -/
theorem arbitrateFrom_rests (n : Nat) (s : State) (h : s.host.queue.length < n) : (s.arbitrateFrom n).Rests := by
  induction n generalizing s with
  | zero => omega
  | succ n ih =>
    unfold State.arbitrateFrom
    split
    · exact .inl (by assumption)
    · split
      · exact .inr (by assumption)
      · exact .inl rfl
      · rename_i hc
        have ho := choice_offers hc
        simp only [State.offers, commitOffers, Bool.and_eq_true] at ho
        obtain ⟨w, hw⟩ := Option.isSome_iff_exists.1 ho.2.1.1
        exact .inl (by simp only [State.issueCommit, hw]; rfl)
      · rename_i hc
        have ho := choice_offers hc
        obtain ⟨⟨x, a, b⟩, hw⟩ := Option.isSome_iff_exists.1 (Bool.and_eq_true_iff.1 ho).2
        refine .inl ?_
        simp only [State.issueCopy, hw]
        split <;> rfl
      · rename_i hc
        have ho := choice_offers hc
        obtain ⟨⟨x, a⟩, hw⟩ := Option.isSome_iff_exists.1 (show s.drainOffered.isSome = true from ho)
        exact .inl (by simp only [State.issueDrain, hw]; rfl)
      · rename_i hc
        have ho := choice_offers hc
        have : s.patrol.outstanding.isSome = true := by
          have ho' := (Bool.and_eq_true_iff.1 ho).2
          unfold patrolOffer at ho'
          split at ho'
          · simp_all
          · cases ho'
        obtain ⟨w, hw⟩ := Option.isSome_iff_exists.1 this
        exact .inl (by simp only [State.issuePatrol, hw]; rfl)
      · rename_i hc
        have ho : (hostOffer s.host).isSome = true := choice_offers hc
        obtain ⟨w, hw⟩ := Option.isSome_iff_exists.1 ho
        simp only [hw]
        split
        · refine ih _ ?_
          show (s.host.queue.drop 1).length < n
          have : s.host.queue ≠ [] := by
            intro e; simp [hostOffer, e] at hw
          have := List.length_pos_of_ne_nil this
          simp only [List.length_drop]; omega
        · exact .inl rfl

theorem arbitrate_rests (s : State) : s.arbitrate.Rests := arbitrateFrom_rests _ _ (Nat.lt_succ_self _)

/-- Choosing twice is choosing once. -/
@[simp] theorem arbitrate_twice (s : State) : s.arbitrate.arbitrate = s.arbitrate :=
  arbitrate_of_rests (arbitrate_rests s)

/-- The arbiter leaves the channel. -/
theorem arbitrateFrom_channel (n : Nat) (s : State) : (s.arbitrateFrom n).host.channel = s.host.channel := by
  induction n generalizing s with
  | zero => rfl
  | succ n ih =>
    unfold State.arbitrateFrom
    split
    · rfl
    · split
      · rfl
      · rfl
      · unfold State.issueCommit; split <;> rfl
      · unfold State.issueCopy
        split
        · split <;> rfl
        · rfl
      · unfold State.issueDrain; split <;> rfl
      · unfold State.issuePatrol; split <;> rfl
      · split
        · split
          · rw [ih]; rfl
          · rfl
        · rfl

@[simp] theorem arbitrate_channel (s : State) : s.arbitrate.host.channel = s.host.channel := arbitrateFrom_channel _ _

/-- With no request waiting, what follows a change is the arbiter's choice. -/
theorem settle_no_channel {s : State} (h : s.host.channel = []) : s.settle = s.arbitrate :=
  takeHeld_empty _ (by rw [arbitrate_channel]; exact h)

/-- A request presented to a quiet part that admits it is taken, and the arbiter chooses. -/
theorem present_quiet {s : State} (r : HostRequest) (h : s.Quiet) (ht : s.canTake r = true) :
    s.present r = (s.takeRequest r).arbitrate := by
  have hr : s.host.ready ≠ .inReset := by
    intro e; simp [State.canTake, e] at ht
  have hset : (s.setHost { s.host with channel := s.host.channel ++ [r] }).Rests := h.1
  have hch : (s.setHost { s.host with channel := s.host.channel ++ [r] }).host.channel = [r] := by simp [h.2]
  have hback : (s.setHost { s.host with channel := s.host.channel ++ [r] }).setHost
      { (s.setHost { s.host with channel := s.host.channel ++ [r] }).host with channel := [] } = s := by
    show s.setHost { s.host with channel := [] } = s
    rw [← h.2]; rfl
  unfold State.present State.settle
  rw [arbitrate_of_rests hset]
  simp only [hch, List.length_singleton]
  rw [takeHeld_cons 0 hch hr ht, hback]
  rfl

end Sys2Proof.Machine
end

