-- ==== Sys2Proof/Laws/Linked.lean ====
section
/-! SUPPORT. What the steps of a relocation, a commit and the loader do to the agreement of the tables with them. -/

namespace Sys2Proof.Machine

/-- No entry is PENDING. -/
def NonePending (x : Xlat) : Prop := ∀ b e, tableGet x.remap b = some e → e.state = .inUse

/-- The fields of the record that the tables agree with. -/
def recordKey (q : RelocRecord) : Nat × Option Nat × Option CommitPurpose := (q.block, q.spare, q.purpose)

/-- The engine and its record stay as the tables see them, and no entry joins the queue. -/
structure SameRelocation (r y : Reloc) : Prop where
  engine : y.engine = r.engine
  record : y.record.map recordKey = r.record.map recordKey
  urgent : ∀ e ∈ y.urgent, ∃ f, (f ∈ r.urgent ∨ f ∈ r.normal) ∧ f.block = e.block
  normal : ∀ e ∈ y.normal, ∃ f, (f ∈ r.urgent ∨ f ∈ r.normal) ∧ f.block = e.block

theorem SameRelocation.keep {r y : Reloc} (he : y.engine = r.engine) (hr : y.record.map recordKey = r.record.map recordKey)
    (hu : y.urgent = r.urgent) (hn : y.normal = r.normal) : SameRelocation r y :=
  ⟨he, hr, fun e h => ⟨e, .inl (hu ▸ h), rfl⟩, fun e h => ⟨e, .inr (hn ▸ h), rfl⟩⟩

theorem SameRelocation.relabel {r : Reloc} {f g : QueueEntry → QueueEntry} (hf : ∀ e, (f e).block = e.block)
    (hg : ∀ e, (g e).block = e.block) : SameRelocation r { r with urgent := r.urgent.map f, normal := r.normal.map g } := by
  refine ⟨rfl, rfl, fun e h => ?_, fun e h => ?_⟩
  · obtain ⟨q, hq, rfl⟩ := List.mem_map.1 h
    exact ⟨q, .inl hq, (hf q).symm⟩
  · obtain ⟨q, hq, rfl⟩ := List.mem_map.1 h
    exact ⟨q, .inr hq, (hg q).symm⟩

/-- Entries leave the queue. -/
theorem SameRelocation.remove {r : Reloc} {u n : List QueueEntry} (hu : u.Sublist r.urgent) (hn : n.Sublist r.normal) :
    SameRelocation r { r with urgent := u, normal := n } :=
  ⟨rfl, rfl, fun e h => ⟨e, .inl (hu.subset h), rfl⟩, fun e h => ⟨e, .inr (hn.subset h), rfl⟩⟩

theorem record_key {r y : Reloc} (h : y.record.map recordKey = r.record.map recordKey) {q : RelocRecord} (hq : y.record = some q) :
    ∃ p, r.record = some p ∧ p.block = q.block ∧ p.spare = q.spare ∧ p.purpose = q.purpose := by
  rw [hq] at h
  cases hr : r.record with
  | none => simp [hr] at h
  | some p => simp [hr, recordKey] at h; exact ⟨p, rfl, h.1.symm, h.2.1.symm, h.2.2.symm⟩

namespace TablesAgree

variable {x : Xlat} {r : Reloc} {w : Option Nat} {l : Loader}

theorem notPending (a : TablesAgree x r w l) {b : Nat} (h : ∀ q, r.record = some q → q.block = b → q.spare = none)
    {e : RemapEntry} (he : tableGet x.remap b = some e) : e.state = .inUse := by
  obtain ⟨sp, st⟩ := e
  cases st with
  | inUse => rfl
  | pending p m =>
    obtain ⟨q, h1, h2, h3, _⟩ := a.2.pendingOf b sp p m he
    rw [h q h1 h2] at h3
    cases h3

/-- The limits and the defect list do not matter. -/
theorem limits (a : TablesAgree x r w l) {y : Xlat} (hr : y.remap = x.remap) (hs : y.spares = x.spares) (hl : y.lost = x.lost)
    (hn : y.nb = x.nb) : TablesAgree y r w l := by
  obtain ⟨d, p, nb, rm, ss, lo, el, elp, fz⟩ := x
  obtain ⟨d', p', nb', rm', ss', lo', el', elp', fz'⟩ := y
  simp only at hr hs hl hn
  subst hr hs hl hn
  exact ⟨{ a.1 with }, { a.2 with }⟩

theorem same (a : TablesAgree x r w l) {y : Reloc} (c : SameRelocation r y) : TablesAgree x y w l := by
  obtain ⟨f, a⟩ := a
  obtain ⟨he, hr, hu, hn⟩ := c
  have hr' : r.record.map recordKey = y.record.map recordKey := hr.symm
  refine ⟨f, ?_, ?_, ?_, ?_, ?_, ?_, ?_, a.classed⟩
  · rw [he, a.idle]
    cases h1 : r.record <;> cases h2 : y.record <;> simp [h1, h2] at hr ⊢
  · intro b sp p m h
    obtain ⟨q, h1, h2, h3, h4⟩ := a.pendingOf b sp p m h
    obtain ⟨q', k1, k2, k3, k4⟩ := record_key hr' h1
    rw [he]
    exact ⟨q', k1, k2.trans h2, k3.trans h3, by rw [k4]; exact h4⟩
  · intro q hq hc
    obtain ⟨q', k1, k2, k3, k4⟩ := record_key hr hq
    rw [he] at hc
    rw [← k2, ← k3]
    exact a.copying q' k1 hc
  · intro q hq hp
    obtain ⟨q', k1, k2, k3, k4⟩ := record_key hr hq
    rw [he]
    exact a.purpose q' k1 (by rw [k4]; exact hp)
  · intro b hb
    obtain ⟨h0, q, h1, h2, h3⟩ := a.writing b hb
    obtain ⟨q', k1, k2, k3, k4⟩ := record_key hr' h1
    rw [he]
    exact ⟨h0, q', k1, k2.trans h2, k4.trans h3⟩
  · rintro e (h | h)
    · obtain ⟨g, hg, hb⟩ := hu e h
      rw [← hb]; exact a.queued g hg
    · obtain ⟨g, hg, hb⟩ := hn e h
      rw [← hb]; exact a.queued g hg
  · intro hl
    obtain ⟨h1, h2, h3⟩ := a.loading hl
    refine ⟨?_, ?_, ?_⟩
    · cases hy : y.record with
      | none => rfl
      | some q => simp [h1, hy] at hr
    · refine List.eq_nil_iff_forall_not_mem.2 fun e h => ?_
      obtain ⟨g, hg, _⟩ := hu e h
      simp [h2, h3] at hg
    · refine List.eq_nil_iff_forall_not_mem.2 fun e h => ?_
      obtain ⟨g, hg, _⟩ := hn e h
      simp [h2, h3] at hg

/-- An entry for a block that is not lost joins the queue, the loader having ended. -/
theorem join (a : TablesAgree x r w l) (hl : l.isLoading = false) {y : Reloc} {e : QueueEntry} (hb : e.block ∉ x.lost)
    (he : y.engine = r.engine) (hr : y.record = r.record)
    (hq : ∀ f, f ∈ y.urgent ∨ f ∈ y.normal → f = e ∨ f ∈ r.urgent ∨ f ∈ r.normal) : TablesAgree x y w l := by
  obtain ⟨f, a⟩ := a
  refine ⟨f, by rw [he, hr]; exact a.idle, by rw [he, hr]; exact a.pendingOf, by rw [he, hr]; exact a.copying,
    by rw [he, hr]; exact a.purpose, by rw [he, hr]; exact a.writing, ?_, by rw [hl]; nofun, a.classed⟩
  intro g hg
  rcases hq g hg with rfl | hg
  · exact hb
  · exact a.queued g hg

/-- The engine goes from PREPARE to COPY (R111). -/
theorem endPrepare (a : TablesAgree x r w l) (hp : r.engine = .prepare) {y : Reloc} (he : y.engine = .copy)
    (hr : y.record.map recordKey = r.record.map recordKey) (hu : y.urgent = r.urgent) (hn : y.normal = r.normal) :
    TablesAgree x y w l := by
  have hs : SameRelocation r { y with engine := r.engine } := .keep rfl hr hu hn
  obtain ⟨f, b⟩ := a.same hs
  refine ⟨f, ?_, ?_, ?_, ?_, ?_, b.queued, b.loading, b.classed⟩
  · have := b.idle
    simp only [hp] at this
    simp only [he]
    exact ⟨nofun, fun h => absurd (this.2 h) (by decide)⟩
  · intro c sp p m h
    obtain ⟨q, h1, h2, h3, h4⟩ := b.pendingOf c sp p m h
    refine ⟨q, h1, h2, h3, ?_⟩
    simp only [hp] at h4
    simp only [he]
    split at h4
    · exact absurd h4.1 (by decide)
    · simp [*]
  · intro q hq _
    exact b.copying q hq (.inl hp)
  · intro q hq hpp
    have := b.purpose q hq hpp
    rw [show ({ y with engine := r.engine } : Reloc).engine = r.engine from rfl, hp] at this
    cases this
  · intro c hc
    have := (b.writing c hc).1
    rw [show ({ y with engine := r.engine } : Reloc).engine = r.engine from rfl, hp] at this
    cases this

theorem loading_false (a : TablesAgree x r w l) (h : r.record ≠ none ∨ r.urgent ≠ [] ∨ r.normal ≠ []) : l.isLoading = false := by
  by_contra hl
  obtain ⟨h1, h2, h3⟩ := a.2.loading (by simpa using hl)
  rcases h with h | h | h
  · exact h h1
  · exact h h2
  · exact h h3

/-- No switch is being written while the engine prepares, copies or is IDLE. -/
theorem no_switch (a : TablesAgree x r w l) (h : r.engine ≠ .commitWait) : w = none := by
  cases hw : w with
  | none => rfl
  | some b => exact absurd (a.2.writing b hw).1 h

/-- An IDLE engine has no PENDING entry beside it. -/
theorem none_pending (a : TablesAgree x r w l) (h : r.record = none) : NonePending x := by
  intro b e he
  exact a.notPending (b := b) (by simp [h]) he

/-- The relocation of the head is prepared (R109, R110). -/
theorem prepare (a : TablesAgree x r w l) (hi : r.engine = .idle) {e : QueueEntry} (he : queueHead r = some e) {i : Nat}
    (hs : spareToAllocate x = some i) {y : Reloc} (hu : ∀ f, f ∈ y.urgent ∨ f ∈ y.normal → f ∈ r.urgent ∨ f ∈ r.normal)
    {q : RelocRecord} (hq : y.record = some q) (hb : q.block = e.block) (hsp : q.spare = some i) (hpu : q.purpose = none)
    (hen : y.engine = .prepare ∨ y.engine = .copy) :
    TablesAgree { x with
      spares := tableSet x.spares i .pending
      remap := tableSet x.remap e.block { spare := i, state := .pending (priorOf x e.block) false } } y w l := by
  have hmem : e ∈ r.urgent ∨ e ∈ r.normal := by
    unfold queueHead at he
    split at he
    · rename_i hx; cases he; rw [hx]; exact .inl (List.mem_cons_self ..)
    · exact .inr (List.mem_of_mem_head? he)
  have hlost := a.2.queued e hmem
  have hrec := a.2.idle.1 hi
  have hno := a.none_pending hrec
  have hw := a.no_switch (by rw [hi]; decide)
  have hl := a.loading_false (by rcases hmem with h | h <;> grind)
  refine ⟨a.1.makePending hs hlost, ?_, ?_, ?_, ?_, ?_, ?_, by rw [hl]; nofun, a.2.classed⟩
  · rw [hq]
    rcases hen with h | h <;> simp [h]
  · intro b sp p m h
    simp only [tableGet_tableSet] at h
    split at h
    · cases h
      exact ⟨q, hq, by simp [*], hsp, by simpa using hen⟩
    · exact absurd (hno b _ h) (by simp)
  · intro q' hq' _
    rw [hq] at hq'
    cases hq'
    refine ⟨i, priorOf x e.block, hsp, ?_⟩
    simp only [tableGet_tableSet, hb, if_true]
  · intro q' hq' hp
    rw [hq] at hq'
    cases hq'
    exact absurd hpu hp
  · rw [hw]; nofun
  · exact fun f hf => a.2.queued f (hu f hf)

/-- No relocation is under way any more, or its engine waits or has been released, and no entry is PENDING. -/
theorem ended (a : TablesAgree x r w l) {y : Xlat} (fy : TablesFit y) (hl : y.lost = x.lost) (hnb : y.nb = x.nb)
    (hno : NonePending y) (hld : l.isLoading = false) {z : Reloc} (hi : z.engine = .idle ↔ z.record = none)
    (hen : z.engine ≠ .prepare ∧ z.engine ≠ .copy) (hp : ∀ q, z.record = some q → q.purpose ≠ none → z.engine = .commitWait)
    (hu : ∀ f, f ∈ z.urgent ∨ f ∈ z.normal → f ∈ r.urgent ∨ f ∈ r.normal) : TablesAgree y z none l := by
  refine ⟨fy, hi, ?_, ?_, hp, nofun, ?_, by rw [hld]; nofun, by rw [hnb]; exact a.2.classed⟩
  · intro b sp p m h
    exact absurd (hno b _ h) (by simp)
  · intro q _ h
    rcases h with h | h
    · exact absurd h hen.1
    · exact absurd h hen.2
  · rw [hl]
    exact fun f hf => a.2.queued f (hu f hf)

/-- The PENDING entry of the record of an engine that copies. -/
theorem entry (a : TablesAgree x r w l) {q : RelocRecord} (hq : r.record = some q) (he : r.engine = .prepare ∨ r.engine = .copy) :
    ∃ sp p, q.spare = some sp ∧ tableGet x.remap q.block = some { spare := sp, state := .pending p false } :=
  a.2.copying q hq he

/-- The spare of the copy fails, and another takes its place (R27, R114). -/
theorem replace (a : TablesAgree x r w l) {q : RelocRecord} (hq : r.record = some q) (he : r.engine = .copy) {sp u : Nat}
    {p : Option Nat} (hb : tableGet x.remap q.block = some { spare := sp, state := .pending p false })
    (hu : spareToAllocate { x with spares := tableSet x.spares sp .retired } = some u) {z : Reloc} (hen : z.engine = r.engine)
    {q' : RelocRecord} (hq' : z.record = some q') (hk : q'.block = q.block) (hs : q'.spare = some u)
    (hp : q'.purpose = q.purpose) (h1 : z.urgent = r.urgent) (h2 : z.normal = r.normal) :
    TablesAgree { x with
      spares := tableSet (tableSet x.spares sp .retired) u .pending
      remap := tableSet x.remap q.block { spare := u, state := .pending p false } } z w l := by
  have hl := a.loading_false (.inl (by rw [hq]; simp))
  have hw := a.no_switch (by rw [he]; decide)
  refine ⟨a.1.replace hb hu, ?_, ?_, ?_, ?_, by rw [hw]; nofun, ?_, by rw [hl]; nofun, a.2.classed⟩
  · rw [hen, he, hq']; simp
  · intro b sp' p' m' h
    simp only [tableGet_tableSet] at h
    split at h
    · cases h
      exact ⟨q', hq', by simp [*], hs, by simp [hen, he]⟩
    · rename_i hne
      have := a.1.single b q.block _ _ h hb (by simp) (by simp)
      exact absurd this hne
  · intro q'' hq'' _
    rw [hq'] at hq''
    cases hq''
    exact ⟨u, p, hs, by simp only [tableGet_tableSet, hk, if_true]⟩
  · intro q'' hq'' hpp
    rw [hq'] at hq''
    cases hq''
    rw [hp] at hpp
    have := a.2.purpose q hq hpp
    rw [he] at this
    cases this
  · rw [h1, h2]
    exact a.2.queued

/-- After a spare failure without a retry no entry is PENDING (R27, R30). -/
theorem dropped_none (a : TablesAgree x r w l) {b sp : Nat} {p : Option Nat} {m : Bool}
    (hb : tableGet x.remap b = some { spare := sp, state := .pending p m }) (ss : List (Nat × SpareState)) :
    NonePending (dropPending { x with spares := ss } b) := by
  intro c e h
  unfold dropPending at h
  simp only [hb] at h
  have key : c ≠ b → tableGet x.remap c = some e → e.state = .inUse := by
    intro hc he
    by_contra hn
    exact hc (a.1.single c b _ _ he hb hn (by simp))
  cases p with
  | some t =>
    simp only [tableGet_tableSet] at h
    split at h
    · cases h; rfl
    · exact key (by assumption) h
  | none =>
    simp only [tableGet_tableErase] at h
    split at h
    · cases h
    · exact key (by assumption) h

theorem dropPending_same {b : Nat} (h : NonePending x) : dropPending x b = x := by
  unfold dropPending
  split
  · rename_i e he
    rw [h b e he]
  · rfl

@[simp] theorem dropPending_lost (x : Xlat) (b : Nat) : (dropPending x b).lost = x.lost := by
  unfold dropPending
  split
  · split <;> rfl
  · rfl

@[simp] theorem dropPending_nb (x : Xlat) (b : Nat) : (dropPending x b).nb = x.nb := by
  unfold dropPending
  split
  · split <;> rfl
  · rfl

/-- The copy is complete (R113). -/
theorem copyComplete (a : TablesAgree x r w l) {q : RelocRecord} (hq : r.record = some q) (he : r.engine = .copy) {z : Reloc}
    (hen : z.engine = .commitWait) {q' : RelocRecord} (hq' : z.record = some q') (hk : q'.block = q.block)
    (hs : q'.spare = q.spare) (hp : q'.purpose = some .switch) (h1 : z.urgent = r.urgent) (h2 : z.normal = r.normal) :
    TablesAgree (markCopied x q.block) z w l := by
  obtain ⟨sp, p, hsp, hb⟩ := a.entry hq (.inr he)
  have hl := a.loading_false (.inl (by rw [hq]; simp))
  have hw := a.no_switch (by rw [he]; decide)
  have hm : markCopied x q.block =
      { x with remap := tableSet x.remap q.block { spare := sp, state := .pending p true } } := by
    unfold markCopied
    simp only [hb]
  have hf := a.1.markCopied q.block
  rw [hm] at hf ⊢
  refine ⟨hf, ?_, ?_, ?_, ?_, by rw [hw]; nofun, ?_, by rw [hl]; nofun, a.2.classed⟩
  · rw [hen, hq']; simp
  · intro b sp' p' m' h
    simp only [tableGet_tableSet] at h
    split at h
    · cases h
      exact ⟨q', hq', by simp [*], by rw [hs, hsp], by simp [hen, hp]⟩
    · rename_i hne
      exact absurd (a.1.single b q.block _ _ h hb (by simp) (by simp)) hne
  · intro _ _ h
    rw [hen] at h
    simp at h
  · intro _ _ _
    exact hen
  · rw [h1, h2]
    exact a.2.queued

/-- A block joins the lost list (R34): it is neither queued nor PENDING. -/
theorem lose (a : TablesAgree x r w l) {y : Xlat} (fy : TablesFit y) {b : Nat} (hl : y.lost = insertRising x.lost b)
    (hg : ∀ c, c ≠ b → tableGet y.remap c = tableGet x.remap c) (hy : tableGet y.remap b = none) (hnb : y.nb = x.nb)
    (hb : ∀ e, tableGet x.remap b = some e → e.state = .inUse) (hq : ∀ e, e ∈ r.urgent ∨ e ∈ r.normal → e.block ≠ b) :
    TablesAgree y r w l := by
  refine ⟨fy, a.2.idle, ?_, ?_, a.2.purpose, a.2.writing, ?_, a.2.loading, by rw [hnb]; exact a.2.classed⟩
  · intro c sp p m h
    by_cases hc : c = b
    · subst hc; rw [hy] at h; cases h
    · exact a.2.pendingOf c sp p m (hg c hc ▸ h)
  · intro q hqr he
    obtain ⟨sp, p, h1, h2⟩ := a.2.copying q hqr he
    refine ⟨sp, p, h1, ?_⟩
    rw [hg]
    · exact h2
    · rintro rfl
      have := hb _ h2
      cases this
  · intro e he hm
    rw [hl] at hm
    rcases (mem_insertRising _ _ _).1 hm with h | h
    · exact hq e he h
    · exact a.2.queued e he h

/-- The switch of a completed image is applied, and no image is being written (R29, R135). -/
theorem switched (a : TablesAgree x r w l) {b sp : Nat} {p : Option Nat} {m : Bool} (hw : w = some b)
    (hb : tableGet x.remap b = some { spare := sp, state := .pending p m }) :
    TablesAgree { x with
      remap := tableSet x.remap b { spare := sp, state := .inUse }, spares := TablesFit.switchedSpares x sp p } r none l := by
  obtain ⟨he, q, hq, hqb, hqp⟩ := a.2.writing b hw
  have hl := a.loading_false (.inl (by rw [hq]; simp))
  refine a.ended (a.1.switch hb) rfl rfl ?_ hl a.2.idle (by rw [he]; decide) a.2.purpose (fun f h => h)
  intro c e h
  simp only [tableGet_tableSet] at h
  split at h
  · cases h; rfl
  · rename_i hc
    by_contra hn
    exact hc (a.1.single c b _ _ h hb hn (by simp))

/-- The image being written is done with, or is one without a switch. -/
theorem noSwitch (a : TablesAgree x r w l) : TablesAgree x r none l := ⟨a.1, { a.2 with writing := nofun }⟩

/-- An image that is captured carries the switch of the record that waits for it (R31, R132). -/
theorem captured (a : TablesAgree x r w l) : TablesAgree x r (renderedSwitch x) l := by
  refine ⟨a.1, { a.2 with writing := ?_ }⟩
  intro b hb
  unfold renderedSwitch at hb
  obtain ⟨e, he, rfl⟩ := Option.map_eq_some_iff.1 hb
  have hm := List.mem_of_find?_eq_some he
  have hp := List.find?_some he
  obtain ⟨c, sp, st⟩ := e
  have hg := tableGet_of_mem a.1.remap hm
  cases st with
  | inUse => simp at hp
  | pending p m =>
    cases m with
    | false => simp at hp
    | true =>
      obtain ⟨q, h1, h2, _, h4⟩ := a.2.pendingOf c sp p true hg
      exact ⟨h4.1, q, h1, h2, h4.2⟩

/-- The loader goes on. -/
theorem loader (a : TablesAgree x r w l) {k : Loader} (hl : k.isLoading = true → l.isLoading = true)
    (hc : ∀ i, k.classA = some (.valid i) → imageValid x.nb i = true) : TablesAgree x r w k :=
  ⟨a.1, { a.2 with loading := fun h => a.2.loading (hl h), classed := hc }⟩

/-- The loader sets the tables while it loads. -/
theorem loaded (a : TablesAgree x r w l) (hl : l.isLoading = true) {y : Xlat} (fy : TablesFit y) (hno : NonePending y) {k : Loader}
    (hc : ∀ i, k.classA = some (.valid i) → imageValid y.nb i = true) : TablesAgree y r w k := by
  obtain ⟨h1, h2, h3⟩ := a.2.loading hl
  refine ⟨fy, a.2.idle, ?_, ?_, ?_, a.2.writing, ?_, fun _ => ⟨h1, h2, h3⟩, hc⟩
  · intro b sp p m h
    exact absurd (hno b _ h) (by simp)
  · rw [h1]; nofun
  · rw [h1]; nofun
  · rw [h2, h3]; simp

end TablesAgree

end Sys2Proof.Machine
end

