-- ==== Sys2Proof/Laws/Port.lean ====
section
/-! SUPPORT. What the operations of the host port do to the reserve, the read queue and the OUTSTANDING tags. -/

namespace Sys2Proof.Machine

/-! ## Tables of tags -/

theorem not_mem_keys {α : Type} {t : List (Nat × α)} {k : Nat} (h : tableGet t k = none) : k ∉ t.map (·.1) := by
  induction t with
  | nil => simp
  | cons p rest ih =>
    unfold tableGet at h
    split at h
    · cases h
    · rename_i hne
      simp only [List.map_cons, List.mem_cons, not_or]
      exact ⟨fun he => hne he.symm, ih h⟩

theorem keys_tableSet {α : Type} {t : List (Nat × α)} {k : Nat} (h : tableGet t k = none) (a : α) :
    ((tableSet t k a).map (·.1)).Perm (k :: t.map (·.1)) := by
  induction t with
  | nil => simp [tableSet]
  | cons p rest ih =>
    obtain ⟨j, b⟩ := p
    have hn := not_mem_keys h
    unfold tableGet at h
    split at h
    · cases h
    · unfold tableSet
      split
      · simp
      · split
        · rename_i he; simp [he] at hn
        · exact (List.Perm.cons _ (ih h)).trans (List.Perm.swap _ _ _)

theorem keys_tableErase {α : Type} (t : List (Nat × α)) (k : Nat) :
    (tableErase t k).map (·.1) = (t.map (·.1)).filter (· != k) := by
  unfold tableErase
  rw [List.filter_map]
  rfl

theorem TagsMatch.perm {t : List (Nat × Nat)} {l k : List Nat} (h : TagsMatch t l) (p : l.Perm k) : TagsMatch t k :=
  ⟨h.1.trans p, p.nodup_iff.1 h.2⟩

/-- A tag that is not OUTSTANDING becomes so. -/
theorem TagsMatch.add {t : List (Nat × Nat)} {l : List Nat} (h : TagsMatch t l) {tag : Nat} (hn : outstanding t tag = false)
    (a : Nat) : TagsMatch (tableSet t tag a) (tag :: l) := by
  have hn : tableGet t tag = none := by simpa [outstanding] using hn
  exact ⟨(keys_tableSet hn a).trans (h.1.cons _),
    List.nodup_cons.2 ⟨fun hm => not_mem_keys hn (h.1.mem_iff.2 hm), h.2⟩⟩

theorem TagsMatch.length {t : List (Nat × Nat)} {l : List Nat} (h : TagsMatch t l) : t.length = l.length := by
  simpa using h.1.length_eq

/-- An OUTSTANDING tag is freed. -/
theorem TagsMatch.free {t : List (Nat × Nat)} {l : List Nat} {tag : Nat} (h : TagsMatch t (tag :: l)) :
    TagsMatch (tableErase t tag) l := by
  obtain ⟨hp, hd⟩ := h
  obtain ⟨hn, hd⟩ := List.nodup_cons.1 hd
  refine ⟨?_, hd⟩
  rw [keys_tableErase]
  refine (hp.filter _).trans ?_
  rw [List.filter_cons_of_neg (by simp), List.filter_eq_self.2]
  intro a ha
  simp only [bne_iff_ne, ne_eq]
  rintro rfl
  exact hn ha

/-- Several OUTSTANDING tags are freed, one after another. -/
theorem TagsMatch.freeAll {t : List (Nat × Nat)} {gone kept : List Nat} (h : TagsMatch t (gone ++ kept)) :
    TagsMatch (gone.foldl tableErase t) kept := by
  induction gone generalizing t with
  | nil => exact h
  | cons tag rest ih => exact ih h.free

/-! ## The port's operations as changes of its record -/

/-- The port after READ_RESULT, WRITE_ACK or BARRIER_DONE for each tag. -/
def freeReads (h : HostPort) (f : Nat → ReadStatus) (tags : List Nat) : HostPort :=
  { h with responses := h.responses ++ tags.map (fun t => .readResult t (f t)), readTags := tags.foldl tableErase h.readTags }

def freeWrites (h : HostPort) (x : WriteStatus) (tags : List Nat) : HostPort :=
  { h with responses := h.responses ++ tags.map (fun t => .writeAck t x), writeTags := tags.foldl tableErase h.writeTags }

def freeBarriers (h : HostPort) (l : List BarrierRecord) : HostPort :=
  { h with
    responses := h.responses ++ l.map (fun r => .barrierDone r.tag (if r.failFlag then .fail else .durable))
    barrierTags := (l.map (·.tag)).foldl tableErase h.barrierTags }

theorem answerWrites_eq (s : State) (x : WriteStatus) (tags : List Nat) :
    s.answerWrites x tags = s.setHost (freeWrites s.host x tags) := by
  induction tags generalizing s with
  | nil => simp [State.answerWrites, freeWrites, State.setHost]
  | cons t rest ih =>
    unfold State.answerWrites
    rw [ih]
    simp [State.answerWrite, State.setHost, freeWrites]

theorem failTags_eq (s : State) (l : List Entry) :
    s.failTags l = s.setHost (freeWrites s.host .mediaFail (l.flatMap (·.tags))) := by
  induction l generalizing s with
  | nil => simp [State.failTags, freeWrites, State.setHost]
  | cons e rest ih =>
    unfold State.failTags
    rw [ih, answerWrites_eq]
    simp [State.setHost, freeWrites, List.foldl_append]

theorem completeBarriers_eq (s : State) (l : List BarrierRecord) :
    s.completeBarriers l = s.setHost (freeBarriers s.host l) := by
  induction l generalizing s with
  | nil => simp [State.completeBarriers, freeBarriers, State.setHost]
  | cons r rest ih =>
    unfold State.completeBarriers
    rw [ih]
    simp [State.answerBarrier, State.setHost, freeBarriers]

/-! ## The port's form is kept -/

namespace PortFits

variable {h : HostPort} {st : Staging}

theorem respond (f : PortFits h st) (hr : h.reserve < Config.responseRoom) (r : Response) :
    PortFits { h with responses := h.responses ++ [r] } st :=
  { f with reserve := by simp [HostPort.reserve] at hr ⊢; omega }

theorem taken (f : PortFits h st) {r : Response} {rest : List Response} (hr : h.responses = r :: rest) :
    PortFits { h with responses := rest } st :=
  { f with reserve := by have := f.reserve; simp [HostPort.reserve, hr] at this ⊢; omega }

theorem channel (f : PortFits h st) {l : List HostRequest} (hl : ∀ tag addr, .read tag addr ∈ l → tag < 32) :
    PortFits { h with channel := l } st := { f with presented := hl }

theorem ready (f : PortFits h st) (x : ReadyState) : PortFits { h with ready := x } st := { f with }

/-- A read that is not OUTSTANDING joins the queue. -/
theorem queueRead (f : PortFits h st) (hr : h.reserve < Config.responseRoom) {r : ReadRecord} (ht : r.tag < 32)
    (hi : r.issued = false) (hn : outstanding h.readTags r.tag = false) (a : Nat) :
    PortFits { h with queue := h.queue ++ [r], readTags := tableSet h.readTags r.tag a } st := by
  have hm := (f.reads.add hn a).perm (k := (h.queue ++ [r]).map (·.tag)) (by simpa using (List.perm_append_singleton _ _).symm)
  refine { f with reserve := ?_, head := ?_, queued := ?_, reads := hm }
  · have h1 := hm.length
    have h2 := f.reads.length
    simp [HostPort.reserve] at hr h1 h2 ⊢
    omega
  · intro q hq
    rw [List.drop_append] at hq
    rcases List.mem_append.1 hq with hq | hq
    · exact f.head q hq
    · rw [List.mem_singleton.1 (List.mem_of_mem_drop hq)]; exact hi
  · intro q hq
    rcases List.mem_append.1 hq with hq | hq
    · exact f.queued q hq
    · rw [List.mem_singleton.1 hq]; exact ht

/-- The head of the read queue becomes ISSUED. -/
theorem issueFirst (f : PortFits h st) : PortFits { h with queue := Machine.issueFirst h.queue } st := by
  have hf := f.head
  have hq := f.queued
  have hr := f.reads
  cases hx : h.queue with
  | nil =>
    rw [hx] at hr
    exact { f with
      head := by simp [Machine.issueFirst]
      queued := by simp [Machine.issueFirst]
      reads := by simpa [Machine.issueFirst] using hr }
  | cons r rest =>
    rw [hx] at hf hq hr
    exact { f with
      head := by simpa [Machine.issueFirst] using hf
      queued := by simpa [Machine.issueFirst] using hq
      reads := by simpa [Machine.issueFirst] using hr }

/-- The head of the read queue leaves it, answered. -/
theorem answerHead (f : PortFits h st) {r : ReadRecord} {rest : List ReadRecord} (hq : h.queue = r :: rest) (x : ReadStatus) :
    PortFits { h with
      queue := h.queue.drop 1
      responses := h.responses ++ [.readResult r.tag x]
      readTags := tableErase h.readTags r.tag } st := by
  have hm := f.reads
  rw [hq] at hm
  have hm2 : TagsMatch (tableErase h.readTags r.tag) (rest.map (·.tag)) := TagsMatch.free hm
  have hf := f.head
  have ht := f.queued
  rw [hq] at hf ht
  refine { f with reserve := ?_, head := ?_, queued := ?_, reads := ?_ }
  · have h1 := hm.length
    have h2 := hm2.length
    have h3 := f.reserve
    simp [HostPort.reserve] at h1 h2 h3 ⊢
    omega
  · rw [hq]; intro q hm; exact hf q (List.mem_of_mem_drop hm)
  · rw [hq]; intro q hm; exact ht q (List.mem_cons_of_mem _ hm)
  · rw [hq]; exact hm2

/-- The read of the queue's head is abandoned and answered no more, or its answer was discarded. -/
theorem endAbandoned (f : PortFits h st) (x : ReadyState) : PortFits { h with abandoned := none, ready := x } st :=
  { f with reserve := by have := f.reserve; simp [HostPort.reserve] at this ⊢; omega }

/-- A change of the buffer that keeps the waiting tags and the slots' tags. -/
theorem staging (f : PortFits h st) {a : Staging} (ht : a.entries.flatMap (·.tags) = st.entries.flatMap (·.tags))
    (hs : a.hostSlots.map (·.tag) = st.hostSlots.map (·.tag)) : PortFits h a :=
  { f with writes := ht ▸ f.writes, barriers := hs ▸ f.barriers }

/-- A write tag that is not OUTSTANDING waits in an entry. -/
theorem addWrite (f : PortFits h st) (hr : h.reserve < Config.responseRoom) {tag : Nat} (hn : outstanding h.writeTags tag = false)
    (addr : Nat) {a : Staging} (ht : (tag :: st.entries.flatMap (·.tags)).Perm (a.entries.flatMap (·.tags)))
    (hs : a.hostSlots.map (·.tag) = st.hostSlots.map (·.tag)) :
    PortFits { h with writeTags := tableSet h.writeTags tag addr } a := by
  have hm := (f.writes.add hn addr).perm ht
  refine { f with reserve := ?_, writes := hm, barriers := hs ▸ f.barriers }
  have h1 := (f.writes.add hn addr).length
  have h2 := f.writes.length
  simp [HostPort.reserve] at hr h1 h2 ⊢
  omega

/-- Waiting tags are answered and freed. -/
theorem freeWrites (f : PortFits h st) {gone : List Nat} {a : Staging} (x : WriteStatus)
    (ht : (st.entries.flatMap (·.tags)).Perm (gone ++ a.entries.flatMap (·.tags)))
    (hs : a.hostSlots.map (·.tag) = st.hostSlots.map (·.tag)) : PortFits (Machine.freeWrites h x gone) a := by
  have hm := f.writes.perm ht
  refine { f with reserve := ?_, writes := hm.freeAll, barriers := hs ▸ f.barriers }
  have h1 := hm.length
  have h2 := hm.freeAll.length
  have h3 := f.reserve
  simp [HostPort.reserve, Machine.freeWrites] at h1 h2 h3 ⊢
  omega

/-- A record with a barrier tag that is not OUTSTANDING takes a slot. -/
theorem addBarrier (f : PortFits h st) (hr : h.reserve < Config.responseRoom) {r : BarrierRecord}
    (hn : outstanding h.barrierTags r.tag = false) (n : Nat) {a : Staging}
    (ht : a.entries.flatMap (·.tags) = st.entries.flatMap (·.tags)) (hs : a.hostSlots = st.hostSlots ++ [r]) :
    PortFits { h with barrierTags := tableSet h.barrierTags r.tag n } a := by
  have hm := (f.barriers.add hn n).perm (k := a.hostSlots.map (·.tag))
    (by rw [hs]; simpa using (List.perm_append_singleton _ _).symm)
  refine { f with reserve := ?_, writes := ht ▸ f.writes, barriers := hm }
  have h1 := (f.barriers.add hn n).length
  have h2 := f.barriers.length
  simp [HostPort.reserve] at hr h1 h2 ⊢
  omega

/-- Records that complete leave their slots and are answered. -/
theorem freeBarriers (f : PortFits h st) {gone : List BarrierRecord} {a : Staging}
    (ht : a.entries.flatMap (·.tags) = st.entries.flatMap (·.tags)) (hs : st.hostSlots.Perm (gone ++ a.hostSlots)) :
    PortFits (Machine.freeBarriers h gone) a := by
  have hm := f.barriers.perm (k := gone.map (·.tag) ++ a.hostSlots.map (·.tag)) (by simpa using hs.map (·.tag))
  refine { f with reserve := ?_, writes := ht ▸ f.writes, barriers := hm.freeAll }
  have h1 := hm.length
  have h2 := hm.freeAll.length
  have h3 := f.reserve
  simp [HostPort.reserve, Machine.freeBarriers] at h1 h2 h3 ⊢
  omega

/-- The host link reset empties the port and the buffer's promises. -/
theorem emptied (x : ReadyState) (n : Option Nat) {a : Staging} (ht : a.entries.flatMap (·.tags) = []) (hs : a.hostSlots = []) :
    PortFits { channel := [], responses := [], readTags := [], writeTags := [], barrierTags := [], queue := [],
               ready := x, abandoned := n } a where
  reserve := by cases n <;> simp [HostPort.reserve, Config.responseRoom]
  head := by simp
  presented := by simp
  queued := by simp
  reads := ⟨by simp, by simp⟩
  writes := by rw [ht]; exact ⟨by simp, by simp⟩
  barriers := by rw [hs]; exact ⟨by simp, by simp⟩

/-- The QUEUED records are answered POISON and the ISSUED one stays. -/
theorem poisoned (f : PortFits h st) :
    PortFits { freeReads h (fun _ => .poison) ((h.queue.filter fun r => !r.issued).map (·.tag)) with
      queue := h.queue.filter fun r => r.issued } st := by
  have hp : h.queue.Perm ((h.queue.filter fun r => !r.issued) ++ h.queue.filter fun r => r.issued) := by
    have := List.filter_append_perm (fun r : ReadRecord => !r.issued) h.queue
    simpa using this.symm
  have hm := f.reads.perm (k := (h.queue.filter fun r => !r.issued).map (·.tag) ++ (h.queue.filter fun r => r.issued).map (·.tag))
    (by simpa using hp.map (·.tag))
  refine { f with reserve := ?_, head := ?_, queued := fun r hr => f.queued r (List.mem_of_mem_filter hr), reads := hm.freeAll }
  · have h1 := hm.length
    have h2 := hm.freeAll.length
    have h3 := f.reserve
    simp [HostPort.reserve, freeReads] at h1 h2 h3 ⊢
    omega
  · have hf := f.head
    intro r hr
    cases hx : h.queue with
    | nil => simp [hx] at hr
    | cons q rest =>
      rw [hx] at hf
      have hn : rest.filter (fun r => r.issued) = [] := by
        rw [List.filter_eq_nil_iff]
        intro a ha
        simp [hf a (by simpa using ha)]
      simp only [hx, List.filter_cons, hn] at hr
      split at hr <;> simp at hr

/-- The read queue holds at most 32 records (R78). -/
theorem queue_length (f : PortFits h st) : h.queue.length ≤ 32 := by
  have hs : (h.queue.map (·.tag)) ⊆ List.range 32 := by
    intro t ht
    obtain ⟨r, hr, rfl⟩ := List.mem_map.1 ht
    exact List.mem_range.2 (f.queued r hr)
  have := (List.subperm_of_subset f.reads.2 hs).length_le
  simpa using this

/-- As many barrier tags are OUTSTANDING as slots hold a record (R70). -/
theorem slots_length (f : PortFits h st) : h.barrierTags.length = st.hostSlots.length := by
  simpa using f.barriers.length

end PortFits

end Sys2Proof.Machine
end

