-- ==== Sys2Proof/Laws/Changes.lean ====
section
/-! SUPPORT. What a step can do: every step is a sequence of the changes named here, each a change of one part of the
state, after the end of an operation at the array (R3, R5) or before a power-on reset (R16), if the command is one of those. An
invariant that each change keeps, every step keeps. -/

namespace Sys2Proof.Machine

/-! ## The changes of each part -/

/-- The changes of the event log. -/
inductive LogChange (l : EventLog) : EventLog → Prop
  | append (b : EventBody) : LogChange l (appendRecord l b)
  | acknowledge : LogChange l { l with alert := false }

/-- The changes of the watch table. -/
inductive WatchChange (w : Watch) : Watch → Prop
  | keep (threshold : Nat) (failed : Bool) : WatchChange w { w with threshold := threshold, failed := failed }
  | drop (p : WatchEntry → Bool) (threshold : Nat) :
      WatchChange w { w with entries := w.entries.filter p, threshold := threshold }
  | record (block bits : Nat) : WatchChange w (recordWatch w block bits)
  | halve : WatchChange w (halveWatch w)

/-- The changes of the queue and the in-flight record. -/
inductive RelocChange (r : Reloc) : Reloc → Prop
  /-- The queue stays; the record stays with its block, or is cleared. -/
  | keep (x : Reloc) (hu : x.urgent = r.urgent) (hn : x.normal = r.normal)
      (hr : x.record.map (·.block) = r.record.map (·.block) ∨ x.record = none) : RelocChange r x
  /-- Entries change but not their blocks. -/
  | relabel (f g : QueueEntry → QueueEntry) (hf : ∀ e, (f e).block = e.block) (hg : ∀ e, (g e).block = e.block) :
      RelocChange r { r with urgent := r.urgent.map f, normal := r.normal.map g }
  /-- Entries leave. -/
  | remove (u n : List QueueEntry) (hu : u.Sublist r.urgent) (hn : n.Sublist r.normal) :
      RelocChange r { r with urgent := u, normal := n }
  /-- A normal entry of the block becomes the newest urgent one. -/
  | promote (block : Nat) (e : QueueEntry) (he : e.block = block) (hm : ∃ f ∈ r.normal, f.block = block) :
      RelocChange r
        { r with normal := r.normal.filter fun f => f.block != block, urgent := r.urgent ++ [e] }
  /-- An entry for a block that the part does not queue or migrate joins a class that has room. -/
  | joinUrgent (e : QueueEntry) (hl : r.length < Config.queueEntries) (hb : e.block ∉ relocBlocks r) :
      RelocChange r { r with urgent := r.urgent ++ [e] }
  | joinNormal (e : QueueEntry) (hl : r.length < Config.queueEntries) (hb : e.block ∉ relocBlocks r) :
      RelocChange r { r with normal := r.normal ++ [e] }
  /-- The newest normal entry gives its place to an urgent one. -/
  | displace (e : QueueEntry) (hn : r.normal ≠ []) (hb : e.block ∉ relocBlocks r) :
      RelocChange r { r with normal := r.normal.dropLast, urgent := r.urgent ++ [e] }
  /-- The head leaves the queue and its block is the record's. -/
  | take (e : QueueEntry) (x : Reloc) (he : queueHead r = some e) (hu : x.urgent = (dropHead r).urgent)
      (hn : x.normal = (dropHead r).normal) (hx : x.record.map (·.block) = some e.block) : RelocChange r x

/-- The changes of the staging buffer. -/
inductive StagingChange (a : Staging) : Staging → Prop
  /-- The entries stay, and no record is added. -/
  | keep (x : Staging) (he : x.entries = a.entries) (ho : x.nextOrder = a.nextOrder)
      (hs : x.hostSlots.length ≤ a.hostSlots.length) : StagingChange a x
  /-- A host record is placed in a free slot. -/
  | place (r : BarrierRecord) (hs : a.hostSlots.length < Config.hostBarrierSlots) :
      StagingChange a { a with hostSlots := a.hostSlots ++ [r] }
  /-- Entries leave. -/
  | drop (p : Entry → Bool) : StagingChange a { a with entries := a.entries.filter p }
  /-- Entries change, none of them in line or order; one becomes OPEN only as the one entry of its line, and none becomes
  ISSUED. -/
  | update (f : Entry → Entry) (hk : ∀ e, (f e).line = e.line ∧ (f e).order = e.order)
      (ho : ∀ e ∈ a.entries, (f e).state = .opened → e.state = .opened ∨ hasOther a e = false)
      (hi : ∀ e ∈ a.entries, (f e).state = .issued → e.state = .issued) :
      StagingChange a { a with entries := a.entries.map f }
  /-- The entry of an order becomes ISSUED: it is ISSUED already, or no entry is. -/
  | issue (order : Nat)
      (hi : (∃ e ∈ a.entries, e.order = order ∧ e.state = .issued) ∨ ∀ e ∈ a.entries, e.state ≠ .issued) :
      StagingChange a { a with entries := a.entries.map fun e => if e.order = order then { e with state := .issued } else e }
  /-- A line without an OPEN entry is allocated one. -/
  | allocate (e : Entry) (hl : occupancy a < Config.stagingEntries) (ho : e.order = a.nextOrder) (hs : e.state = .opened)
      (hn : a.entries.any (isOpenOf e.line) = false) :
      StagingChange a { a with entries := a.entries ++ [e], nextOrder := a.nextOrder + 1 }

/-- The waiting tags of the entries and the tags of the host records stay. -/
def SameTags (a x : Staging) : Prop :=
  x.entries.flatMap (·.tags) = a.entries.flatMap (·.tags) ∧ x.hostSlots.map (·.tag) = a.hostSlots.map (·.tag)

theorem SameTags.update {a : Staging} {f : Entry → Entry} (hf : ∀ e, (f e).tags = e.tags) (x : Staging)
    (he : x.entries = a.entries.map f) (hs : x.hostSlots = a.hostSlots) : SameTags a x := by
  refine ⟨?_, by rw [hs]⟩
  rw [he, List.flatMap_map]
  simp [hf]

/-- EL, ELp, the freeze flag and NB stay. -/
def SameLimits (x y : Xlat) : Prop := y.el = x.el ∧ y.elp = x.elp ∧ y.frozen = x.frozen ∧ y.nb = x.nb

/-! ## The changes of the state -/

/-- One change of one part, or of the parts that only keep their forms together: the host port with the staging buffer, and the tables
with the relocation and the commit. The health state does not fall (R157); EL and ELp change by SET_LIMIT, with the freeze flag clear,
and while the loader loads (R36, R37); the loader does not begin to load again (R139). No change
of this kind reaches the lines of the array. -/
inductive Change : State → State → Prop
  | pins (s : State) (x : Pins) : Change s (s.setPins x)
  | port (s : State) (x : MediaPort) : Change s (s.setPort x)
  | patrol (s : State) (x : Patrol) : Change s (s.setPatrol x)
  | link (s : State) (x : Link) : Change s (s.setLink x)
  | deliveries (s : State) (x : List Delivery) : Change s (s.setDeliveries x)
  | posted (s : State) (x : List Instr) : Change s (s.setPosted x)
  | freeCount (s : State) (x : Nat) : Change s (s.setFreeCount x)
  | health (s : State) (x : HealthBlock) (h : healthCode s.health.state ≤ healthCode x.state) : Change s (s.setHealth x)
  | limit (s : State) (el elp : Nat) (h : s.xlat.frozen = false) :
      Change s (s.setXlat { s.xlat with el := el, elp := elp })
  | freeze (s : State) : Change s (s.setXlat { s.xlat with frozen := true })
  | log (s : State) (x : EventLog) (h : LogChange s.log x) : Change s (s.setLog x)
  | arrayOp (s : State) (op : Option ArrayOp) : Change s (s.setArray { s.array with op := op })
  | watch (s : State) (x : Watch) (h : WatchChange s.watch x) : Change s (s.setWatch x)
  | hosting (s : State) (x : HostPort) (a : Staging) (c : Relation.ReflTransGen StagingChange s.staging a)
      (k : StagingOrdered s.staging → PortFits s.host s.staging → PortFits x a) : Change s ((s.setHost x).setStaging a)
  | relocation (s : State) (x : Xlat) (r : Reloc) (c : CommitUnit) (hx : SameLimits s.xlat x)
      (hr : Relation.ReflTransGen RelocChange s.reloc r)
      (k : RelocFits s.reloc → s.Agrees → TablesAgree x r (switchWritten c) s.loader) :
      Change s (((s.setXlat x).setReloc r).setCommit c)
  | loader (s : State) (x : Loader) (h : x.isLoading = true → s.loader.isLoading = true)
      (k : s.Agrees → TablesAgree s.xlat s.reloc (switchWritten s.commit) x) : Change s (s.setLoader x)
  | load (s : State) (x : Xlat) (l : Loader) (h : s.loader.isLoading = true)
      (k : s.Agrees → TablesAgree x s.reloc (switchWritten s.commit) l) : Change s ((s.setXlat x).setLoader l)

/-- A sequence of changes. -/
abbrev Changes : State → State → Prop := Relation.ReflTransGen Change

namespace Changes

variable {s t : State}

theorem refl (s : State) : Changes s s := Relation.ReflTransGen.refl

theorem pins (h : Changes s t) (x : Pins) : Changes s (t.setPins x) := h.tail (.pins t x)
theorem port (h : Changes s t) (x : MediaPort) : Changes s (t.setPort x) := h.tail (.port t x)
theorem patrol (h : Changes s t) (x : Patrol) : Changes s (t.setPatrol x) := h.tail (.patrol t x)
theorem link (h : Changes s t) (x : Link) : Changes s (t.setLink x) := h.tail (.link t x)
theorem deliveries (h : Changes s t) (x : List Delivery) : Changes s (t.setDeliveries x) := h.tail (.deliveries t x)
theorem posted (h : Changes s t) (x : List Instr) : Changes s (t.setPosted x) := h.tail (.posted t x)
theorem freeCount (h : Changes s t) (x : Nat) : Changes s (t.setFreeCount x) := h.tail (.freeCount t x)
theorem health (h : Changes s t) (x : HealthBlock) (c : healthCode t.health.state ≤ healthCode x.state) :
    Changes s (t.setHealth x) := h.tail (.health t x c)
theorem log (h : Changes s t) {x : EventLog} (c : LogChange t.log x) : Changes s (t.setLog x) := h.tail (.log t x c)
theorem arrayOp (h : Changes s t) (op : Option ArrayOp) : Changes s (t.setArray { t.array with op := op }) :=
  h.tail (.arrayOp t op)
theorem watch (h : Changes s t) {x : Watch} (c : WatchChange t.watch x) : Changes s (t.setWatch x) :=
  h.tail (.watch t x c)

theorem hosting (h : Changes s t) (x : HostPort) {a : Staging} (c : Relation.ReflTransGen StagingChange t.staging a)
    (k : StagingOrdered t.staging → PortFits t.host t.staging → PortFits x a) : Changes s ((t.setHost x).setStaging a) :=
  h.tail (.hosting t x a c k)

/-- The port changes and the buffer stays. -/
theorem host (h : Changes s t) {x : HostPort} (k : PortFits t.host t.staging → PortFits x t.staging) : Changes s (t.setHost x) :=
  h.hosting x .refl fun _ => k

/-- The buffer changes and keeps the tags. -/
theorem staging (h : Changes s t) {x : Staging} (c : StagingChange t.staging x) (k : SameTags t.staging x) :
    Changes s (t.setStaging x) :=
  h.hosting t.host (.single c) fun _ f => f.staging k.1 k.2

theorem relocation (h : Changes s t) (x : Xlat) (r : Reloc) (c : CommitUnit) (hx : SameLimits t.xlat x)
    (hr : Relation.ReflTransGen RelocChange t.reloc r)
    (k : RelocFits t.reloc → t.Agrees → TablesAgree x r (switchWritten c) t.loader) :
    Changes s (((t.setXlat x).setReloc r).setCommit c) := h.tail (.relocation t x r c hx hr k)

/-- The tables and the relocation change together. -/
theorem tables (h : Changes s t) (x : Xlat) (r : Reloc) (hx : SameLimits t.xlat x)
    (hr : Relation.ReflTransGen RelocChange t.reloc r)
    (k : RelocFits t.reloc → t.Agrees → TablesAgree x r (switchWritten t.commit) t.loader) :
    Changes s ((t.setXlat x).setReloc r) := h.relocation x r t.commit hx hr k

/-- The relocation changes, and the tables see no change of it. -/
theorem reloc (h : Changes s t) {x : Reloc} (c : RelocChange t.reloc x) (k : SameRelocation t.reloc x) :
    Changes s (t.setReloc x) :=
  h.tables t.xlat x ⟨rfl, rfl, rfl, rfl⟩ (.single c) fun _ a => a.same k

/-- The engine's record changes in fields that the tables do not see. -/
theorem record (h : Changes s t) {x : Reloc} (hu : x.urgent = t.reloc.urgent) (hn : x.normal = t.reloc.normal)
    (he : x.engine = t.reloc.engine) (hk : x.record.map recordKey = t.reloc.record.map recordKey) : Changes s (t.setReloc x) := by
  refine h.reloc (.keep x hu hn (.inl ?_)) (.keep he hk hu hn)
  cases h1 : x.record <;> cases h2 : t.reloc.record <;> simp [h1, h2, recordKey] at hk ⊢
  exact hk.1

/-- The commit unit changes; a switch that it writes stays, or is done with. -/
theorem commit (h : Changes s t) {x : CommitUnit} (k : switchWritten x = switchWritten t.commit ∨ switchWritten x = none) :
    Changes s (t.setCommit x) :=
  h.relocation t.xlat t.reloc x ⟨rfl, rfl, rfl, rfl⟩ .refl fun _ a => by
    rcases k with k | k
    · rw [k]; exact a
    · rw [k]; exact a.noSwitch

/-- The loader changes but for the class of copy A. -/
theorem loader (h : Changes s t) {x : Loader} (c : x.isLoading = true → t.loader.isLoading = true)
    (k : x.classA = t.loader.classA) : Changes s (t.setLoader x) :=
  h.tail (.loader t x c fun a => a.loader c (by rw [k]; exact a.2.classed))

theorem load (h : Changes s t) (x : Xlat) (l : Loader) (hl : t.loader.isLoading = true)
    (k : t.Agrees → TablesAgree x t.reloc (switchWritten t.commit) l) : Changes s ((t.setXlat x).setLoader l) :=
  h.tail (.load t x l hl k)

/-! ## Operations of every block -/

theorem post (h : Changes s t) (c : Instr) : Changes s (t.post c) := h.posted _
theorem unpost (h : Changes s t) (c : Instr) : Changes s (t.unpost c) := h.posted _
theorem append (h : Changes s t) (b : EventBody) : Changes s (t.append b) := h.log (.append b)

/-- The health block once its counters are updated, unless it is FAILED (R161). -/
def countedHealth (x : HealthBlock) (f : Counters → Counters) : HealthBlock :=
  if x.state = .failed then x else { x with counters := f x.counters }

theorem count_eq (s : State) (f : Counters → Counters) : s.count f = s.setHealth (countedHealth s.health f) := by
  unfold State.count countedHealth
  split <;> rfl

theorem count (h : Changes s t) (f : Counters → Counters) : Changes s (t.count f) := by
  unfold State.count
  split
  · exact h
  · exact h.health _ (le_refl _)

theorem counted (h : Changes s t) (f : Counters → Counters) : Changes s (t.setHealth (countedHealth t.health f)) := by
  rw [← count_eq]
  exact h.count f

theorem whenUp (h : Changes s t) {f : State → State} (hf : Changes s (f t)) : Changes s (t.whenUp f) := by
  unfold State.whenUp
  split
  · exact h
  · exact hf

theorem reportHealth (h : Changes s t) (i : HealthInput) : Changes s (t.reportHealth i) := by
  have hh : healthCode t.health.state ≤
      healthCode (higherHealth t.health.state (derivedHealth (applyInput t.health i))) := by
    unfold higherHealth
    split
    · exact Nat.le_of_lt (by assumption)
    · exact le_refl _
  unfold State.reportHealth
  dsimp only
  split
  · exact h.health _ hh
  · split
    · exact ((h.health _ hh).append _).posted _
    · exact (h.health _ hh).append _

theorem respond (h : Changes s t) (hr : t.host.reserve < Config.responseRoom) (r : Response) : Changes s (t.respond r) :=
  h.host fun f => f.respond hr r

theorem raiseFence (h : Changes s t) (line : Nat) : Changes s (t.raiseFence line) :=
  h.staging (.keep _ rfl rfl (le_refl _)) ⟨rfl, rfl⟩

theorem lowerFence (h : Changes s t) (line : Nat) : Changes s (t.lowerFence line) :=
  h.staging (.keep _ rfl rfl (le_refl _)) ⟨rfl, rfl⟩

theorem endLong (h : Changes s t) (c : LongCode) (r : LongResult) (n : Nat) : Changes s (t.endLong c r n) := by
  unfold State.endLong
  split
  · split
    · exact h.link _
    · exact h
  · exact h

theorem takeEndings (h : Changes s t) : Changes s t.takeEndings := by
  unfold State.takeEndings
  split
  · exact (h.unpost _).endLong _ _ _
  · exact h

theorem useOrder (h : Changes s t) (n : Nat) : Changes s (t.useOrder n) := h.freeCount _

/-! ## Translation unit and media port -/

theorem dropPending_limits (x : Xlat) (block : Nat) : SameLimits x (dropPending x block) := by
  unfold dropPending
  split
  · split <;> exact ⟨rfl, rfl, rfl, rfl⟩
  · exact ⟨rfl, rfl, rfl, rfl⟩

theorem markCopied_limits (x : Xlat) (block : Nat) : SameLimits x (markCopied x block) := by
  unfold markCopied
  split
  · split <;> exact ⟨rfl, rfl, rfl, rfl⟩
  · exact ⟨rfl, rfl, rfl, rfl⟩

theorem issueOp (h : Changes s t) (kind : OpKind) (req : Requester) (pblock line : Nat) (block : Option Nat)
    (payload : Option (LineContent × Bool)) : Changes s (t.issueOp kind req pblock line block payload) :=
  (h.port _).arrayOp _

theorem endOp (h : Changes s t) (r : OpRecord) (d : Delivered) : Changes s (t.endOp r d) :=
  ((h.port _).deliveries _).post _

theorem takeDelivery (h : Changes s t) (d : Delivery) (c : Instr) : Changes s (t.takeDelivery d c) :=
  (h.deliveries _).unpost _

/-! ## Staging buffer -/

theorem completeFlush (h : Changes s t) : Changes s t.completeFlush := by
  unfold State.completeFlush
  split
  · split
    · exact (h.staging (.keep _ (by rfl) (by rfl) (by rfl)) ⟨by rfl, by rfl⟩).post _
    · exact h
  · exact h

theorem examineBarriers (h : Changes s t) : Changes s t.examineBarriers := by
  unfold State.examineBarriers
  dsimp only
  rw [completeBarriers_eq]
  refine useOrder (h.hosting _ (.single (.keep _ (by rfl) (by rfl) (List.length_filter_le _ _))) fun _ f => ?_) _ |>.completeFlush
  refine f.freeBarriers rfl ?_
  refine (List.filter_append_perm (fun r => recordComplete t.staging r.epoch) t.staging.hostSlots).symm.trans ?_
  exact (freeOrder_perm _ _ _ (le_refl _)).symm.append_right _

/-- Entries leave the buffer, and their waiting tags are answered. -/
theorem discard (h : Changes s t) (p : Entry → Bool) (x : WriteStatus) {tags : List Nat} {a : Staging}
    (he : a.entries = t.staging.entries.filter p) (ho : a.nextOrder = t.staging.nextOrder)
    (hs : a.hostSlots.map (·.tag) = t.staging.hostSlots.map (·.tag))
    (ht : StagingOrdered t.staging → ((t.staging.entries.filter fun e => !p e).flatMap (·.tags)).Perm tags) :
    Changes s ((t.setStaging a).setHost (freeWrites t.host x tags)) := by
  refine h.hosting _ (.tail (.single (.drop p)) (.keep a he ho ?_)) fun o f => ?_
  · show a.hostSlots.length ≤ t.staging.hostSlots.length
    have := congrArg List.length hs
    simp at this
    omega
  · refine f.freeWrites x ?_ hs
    show (t.staging.entries.flatMap (·.tags)).Perm (tags ++ a.entries.flatMap (·.tags))
    rw [he]
    have := (List.filter_append_perm (fun e => !p e) t.staging.entries).symm.flatMap_right (·.tags)
    simp only [Bool.not_not, List.flatMap_append] at this
    exact this.trans ((ht o).append_right _)

theorem discardBlock (h : Changes s t) (block : Nat) : Changes s (t.discardBlock block) := by
  unfold State.discardBlock
  dsimp only
  rw [failTags_eq]
  have h1 := h.discard (fun e => !decide (e.block = block)) .mediaFail
    (tags := (freeOrder (t.staging.entries.filter fun e => decide (e.block = block)).length t.freeCount
      (t.staging.entries.filter fun e => decide (e.block = block))).flatMap (·.tags))
    (a := flagRecords { t.staging with entries := t.staging.entries.filter fun e => !decide (e.block = block) }
      (t.staging.entries.filter fun e => decide (e.block = block))) rfl rfl (by simp [flagRecords, Function.comp_def])
    (fun _ => by
      simp only [Bool.not_not]
      exact (freeOrder_perm _ _ _ (le_refl _)).symm.flatMap_right _)
  split
  · exact (h1.useOrder _).examineBarriers
  · exact ((h1.useOrder _).append _).examineBarriers

theorem discardAll (h : Changes s t) : Changes s t.discardAll := by
  unfold State.discardAll
  dsimp only
  rw [failTags_eq]
  have h1 := h.discard (fun _ => false) .mediaFail
    (tags := (freeOrder t.staging.entries.length t.freeCount t.staging.entries).flatMap (·.tags))
    (a := flagAll { t.staging with entries := [] }) (by simp [flagAll]) rfl (by simp [flagAll, Function.comp_def])
    (fun _ => by
      have : (t.staging.entries.filter fun _ => !false) = t.staging.entries := by simp
      rw [this]
      exact (freeOrder_perm _ _ _ (le_refl _)).symm.flatMap_right _)
  split
  · exact (h1.useOrder _).examineBarriers
  · exact ((h1.useOrder _).append _).examineBarriers

/-- Closing an epoch seals entries and no more. -/
theorem seal_change (a : Staging) : StagingChange a { a with entries := a.entries.map sealEntry } :=
  .update sealEntry (fun e => by unfold sealEntry; split <;> exact ⟨rfl, rfl⟩)
    (fun e _ he => by unfold sealEntry at he; split at he <;> simp_all)
    (fun e _ he => by unfold sealEntry at he; split at he <;> simp_all)

theorem seal_tags (e : Entry) : (sealEntry e).tags = e.tags := by unfold sealEntry; split <;> rfl

theorem closeEpoch_tags (a : Staging) : (closeEpoch a).entries.flatMap (·.tags) = a.entries.flatMap (·.tags) :=
  (SameTags.update seal_tags (closeEpoch a) rfl rfl).1

theorem placeBarrier (h : Changes s t) (tag : Nat) (hs : t.staging.hostSlots.length < Config.hostBarrierSlots)
    (hr : t.host.reserve < Config.responseRoom) (hn : outstanding t.host.barrierTags tag = false) :
    Changes s (t.placeBarrier tag) := by
  refine examineBarriers (h.hosting _ (.tail (.tail (.single (seal_change t.staging))
    (.keep (closeEpoch t.staging) rfl rfl (le_refl _)))
    (.place { tag := tag, epoch := t.staging.epoch, failFlag := false } hs)) fun _ f => ?_)
  exact f.addBarrier (r := { tag := tag, epoch := t.staging.epoch, failFlag := false }) hr hn _ (closeEpoch_tags t.staging) rfl

theorem placeFlush (h : Changes s t) : Changes s t.placeFlush :=
  examineBarriers (h.hosting t.host (.tail (.single (seal_change t.staging))
    (.keep { closeEpoch t.staging with flushSlot := some { epoch := t.staging.epoch, failFlag := false } } rfl rfl (le_refl _)))
    fun _ f => f.staging (closeEpoch_tags t.staging) rfl)

end Changes

end Sys2Proof.Machine
end

