-- ==== Sys2Proof/Laws/Sound.lean ====
section
/-! SUPPORT. Each change of a part keeps the part's form. -/

namespace Sys2Proof.Machine

/-! ## Event log -/

theorem LogChange.consecutive {l x : EventLog} (c : LogChange l x) (h : LogConsecutive l) : LogConsecutive x := by
  obtain ⟨hl, hn, hs, hc⟩ := h
  cases c with
  | acknowledge => exact ⟨hl, hn, hs, hc⟩
  | append b =>
    have hnew : ∀ old : List EventRecord, old.length ≤ 31 →
        (∀ r ∈ old, r.sequence < 4294967296) →
        (∀ i r, old[i]? = some r → (r.sequence + (old.length - i)) % 4294967296 = l.next) →
        LogConsecutive { records := old ++ [{ sequence := l.next, body := b }], next := (l.next + 1) % 4294967296,
                         alert := l.alert || isAlertClass b.kind } := by
      intro old ho hos hoc
      refine ⟨by simp [Config.logRecords]; omega, Nat.mod_lt _ (by decide), ?_, ?_⟩
      · intro r hr
        rcases List.mem_append.1 hr with hr | hr
        · exact hos r hr
        · rw [List.mem_singleton.1 hr]; exact hn
      · intro i r hr
        simp only [List.length_append, List.length_singleton]
        rcases lt_trichotomy i old.length with hi | hi | hi
        · rw [List.getElem?_append_left hi] at hr
          have := hoc i r hr
          omega
        · subst hi
          rw [List.getElem?_append_right (le_refl _)] at hr
          simp at hr
          subst hr
          simp
        · rw [List.getElem?_eq_none (by simp; omega)] at hr
          cases hr
    unfold appendRecord
    split
    · rename_i hlt
      exact hnew l.records (by simp only [Config.logRecords] at hlt; omega) hs hc
    · rename_i hge
      have h32 : l.records.length = 32 := by simp only [Config.logRecords] at hge hl; omega
      refine hnew (l.records.drop 1) (by simp [h32]) (fun r hr => hs r (List.mem_of_mem_drop hr)) ?_
      intro i r hr
      rw [List.getElem?_drop] at hr
      have hi := (List.getElem?_eq_some_iff.1 hr).1
      have := hc (1 + i) r hr
      simp only [List.length_drop]
      rw [show l.records.length - 1 - i = l.records.length - (1 + i) by omega]
      exact this

/-! ## Watch table -/

theorem dropWatch_block {w : Watch} {block : Nat} : block ∉ (dropWatch w block).entries.map (·.block) := by
  simp [dropWatch]

theorem lowestCount_mem {l : List WatchEntry} (hl : l ≠ []) (hc : ∀ e ∈ l, e.count ≤ 255) :
    ∃ e ∈ l, e.count = lowestCount l := by
  have key : ∀ (l : List WatchEntry) (m : Nat),
      (∃ e ∈ l, e.count = l.foldl (fun m e => min m e.count) m) ∨ l.foldl (fun m e => min m e.count) m = m := by
    intro l
    induction l with
    | nil => intro m; exact .inr rfl
    | cons a rest ih =>
      intro m
      rcases ih (min m a.count) with ⟨e, he, hv⟩ | hv
      · exact .inl ⟨e, List.mem_cons_of_mem _ he, hv⟩
      · simp only [List.foldl_cons, hv]
        rcases le_total m a.count with hle | hle
        · exact .inr (min_eq_left hle)
        · exact .inl ⟨a, by simp, (min_eq_right hle).symm⟩
  have low : ∀ (l : List WatchEntry) (m : Nat), l.foldl (fun m e => min m e.count) m ≤ m := by
    intro l
    induction l with
    | nil => intro m; exact le_refl _
    | cons a rest ih => intro m; exact le_trans (ih _) (min_le_left _ _)
  rcases key l 255 with h | h
  · exact h
  · obtain ⟨e, rest, rfl⟩ := List.exists_cons_of_ne_nil hl
    have h1 : lowestCount (e :: rest) ≤ e.count := le_trans (low rest _) (min_le_right _ _)
    have h2 := hc e (by simp)
    have h3 : lowestCount (e :: rest) = 255 := h
    exact ⟨e, by simp, by omega⟩

/-- An insertion finds room: a full table loses an entry (R91). -/
theorem makeRoom_length {l : List WatchEntry} (h : l.length ≤ 32) (hc : ∀ e ∈ l, e.count ≤ 255) :
    (makeRoom l).length < 32 := by
  unfold makeRoom
  split
  · assumption
  · rename_i hfull
    have hne : l ≠ [] := by rintro rfl; simp [Config.watchEntries] at hfull
    obtain ⟨v, hv, hcount⟩ := lowestCount_mem hne hc
    have hsome : (evicted l).isSome = true := by
      unfold evicted
      rw [List.find?_isSome]
      exact ⟨v, by simpa using hv, by simpa using hcount⟩
    obtain ⟨w, hw⟩ := Option.isSome_iff_exists.1 hsome
    rw [hw]
    have hm : w ∈ l := by
      have := List.mem_of_find?_eq_some hw
      simpa using this
    have hlt : (l.filter fun e => e.block != w.block).length < l.length :=
      List.length_filter_lt_length_iff_exists.2 ⟨w, hm, by simp⟩
    exact lt_of_lt_of_le hlt h

theorem makeRoom_sublist (l : List WatchEntry) : (makeRoom l).Sublist l := by
  unfold makeRoom
  split
  · exact List.Sublist.refl _
  · split
    · exact List.filter_sublist
    · exact List.Sublist.refl _

theorem watchEntry_none {w : Watch} {block : Nat} (h : watchEntry w block = none) : block ∉ w.entries.map (·.block) := by
  intro hm
  obtain ⟨e, he, hb⟩ := List.mem_map.1 hm
  have := List.find?_eq_none.1 h e he
  simp [hb] at this

theorem reportedCount_le {w : Watch} (h : ∀ e ∈ w.entries, e.count ≤ 255) (block : Nat) : reportedCount w block ≤ 255 := by
  unfold reportedCount
  split
  · rename_i e he
    have := h e (List.mem_of_find?_eq_some he)
    unfold raiseCount
    split <;> omega
  · omega

theorem WatchFits.sublist {w : Watch} (h : WatchFits w) {l : List WatchEntry} (hl : l.Sublist w.entries) (n : Nat) (b : Bool) :
    WatchFits { entries := l, threshold := n, failed := b } :=
  ⟨le_trans hl.length_le h.1, (hl.map _).nodup h.2.1, fun e he => h.2.2 e (hl.subset he)⟩

theorem WatchChange.fits {w x : Watch} (c : WatchChange w x) (h : WatchFits w) : WatchFits x := by
  cases c with
  | keep threshold failed => exact h
  | drop p threshold => exact h.sublist List.filter_sublist _ _
  | halve =>
    obtain ⟨hl, hd, hc⟩ := h
    have hs : ((w.entries.map fun e => { e with count := e.count / 2 }).filter fun e => decide (0 < e.count)).Sublist
        (w.entries.map fun e => { e with count := e.count / 2 }) := List.filter_sublist
    refine ⟨le_trans hs.length_le (by simpa using hl), (hs.map _).nodup (by simpa [List.map_map, Function.comp_def] using hd), ?_⟩
    intro e he
    obtain ⟨f, hf, rfl⟩ := List.mem_map.1 (hs.subset he)
    have := hc f hf
    show f.count / 2 ≤ 255
    omega
  | record block bits =>
    obtain ⟨hl, hd, hc⟩ := h
    have hr := reportedCount_le hc block
    unfold recordWatch
    dsimp only
    split
    · rename_i f hf
      have hlt : (dropWatch w block).entries.length < w.entries.length :=
        List.length_filter_lt_length_iff_exists.2
          ⟨f, List.mem_of_find?_eq_some hf, by simpa using List.find?_some hf⟩
      have hsub : (dropWatch w block).entries.Sublist w.entries := List.filter_sublist
      refine ⟨by simp only [List.length_cons]; omega, ?_, ?_⟩
      · simp only [List.map_cons, List.nodup_cons]
        exact ⟨dropWatch_block, (hsub.map _).nodup hd⟩
      · intro e he
        rcases List.mem_cons.1 he with rfl | he
        · exact hr
        · exact hc e (hsub.subset he)
    · rename_i hn
      have hsub := makeRoom_sublist w.entries
      have hroom := makeRoom_length hl hc
      refine ⟨by simp only [List.length_cons, Config.watchEntries]; omega, ?_, ?_⟩
      · simp only [List.map_cons, List.nodup_cons]
        exact ⟨fun hm => watchEntry_none hn ((hsub.map _).subset hm), (hsub.map _).nodup hd⟩
      · intro e he
        rcases List.mem_cons.1 he with rfl | he
        · exact hr
        · exact hc e (hsub.subset he)

/-! ## Relocation queue -/

theorem RelocFits.sub {r x : Reloc} (h : RelocFits r) (hl : x.length ≤ r.length)
    (hs : (relocBlocks x).Sublist (relocBlocks r)) : RelocFits x :=
  ⟨le_trans hl h.1, hs.nodup h.2⟩

theorem queueHead_dropHead {r : Reloc} {e : QueueEntry} (h : queueHead r = some e) :
    r.urgent.map (·.block) ++ r.normal.map (·.block) =
      e.block :: ((dropHead r).urgent.map (·.block) ++ (dropHead r).normal.map (·.block)) ∧
    r.length = (dropHead r).length + 1 := by
  obtain ⟨u, n, en, rec, so, fl⟩ := r
  cases u with
  | cons a rest =>
    simp only [queueHead, Option.some.injEq] at h
    subst h
    simp only [dropHead, Reloc.length, List.map_cons, List.cons_append, List.length_cons]
    exact ⟨trivial, by omega⟩
  | nil =>
    cases n with
    | nil => simp [queueHead] at h
    | cons a rest =>
      simp only [queueHead, List.head?_cons, Option.some.injEq] at h
      subst h
      simp [dropHead, Reloc.length]

theorem RelocChange.fits {r x : Reloc} (c : RelocChange r x) (h : RelocFits r) : RelocFits x := by
  cases c with
  | keep x hu hn hr =>
    refine h.sub (by simp [Reloc.length, hu, hn]) ?_
    unfold relocBlocks
    rw [hu, hn]
    rcases hr with hr | hr
    · rw [hr]
    · rw [hr]
      simp only [Option.map_none, Option.toList_none, List.nil_append, List.append_assoc]
      exact List.sublist_append_right _ _
  | relabel f g hf hg =>
    have h1 : (r.urgent.map f).map (·.block) = r.urgent.map (·.block) := by simp [List.map_map, Function.comp_def, hf]
    have h2 : (r.normal.map g).map (·.block) = r.normal.map (·.block) := by simp [List.map_map, Function.comp_def, hg]
    exact h.sub (by simp [Reloc.length]) (by unfold relocBlocks; rw [h1, h2])
  | remove u n hu hn =>
    exact h.sub (Nat.add_le_add hu.length_le hn.length_le)
      ((List.Sublist.append (List.Sublist.append (List.Sublist.refl _) (hu.map _)) (hn.map _)))
  | promote block e he hm =>
    obtain ⟨f, hf, hb⟩ := hm
    have hlt : (r.normal.filter fun f => f.block != block).length < r.normal.length :=
      List.length_filter_lt_length_iff_exists.2 ⟨f, hf, by simp [hb]⟩
    obtain ⟨hl, hd⟩ := h
    refine ⟨by simp only [Reloc.length, List.length_append, List.length_singleton] at hl ⊢; omega, ?_⟩
    unfold relocBlocks at hd ⊢
    simp only [List.map_append, List.map_cons, List.map_nil]
    rw [List.nodup_append] at hd ⊢
    obtain ⟨hd1, hd2, hd3⟩ := hd
    have hfb : f.block ∈ r.normal.map (·.block) := List.mem_map.2 ⟨f, hf, rfl⟩
    have hnot : block ∉ (r.record.map (·.block)).toList ++ r.urgent.map (·.block) :=
      fun hmem => hd3 block hmem f.block hfb hb.symm
    refine ⟨?_, (List.filter_sublist.map _).nodup hd2, ?_⟩
    · rw [← List.append_assoc, List.nodup_append]
      refine ⟨hd1, by simp, ?_⟩
      intro a ha b hb2 hab
      rw [List.mem_singleton.1 hb2, he] at hab
      exact hnot (hab ▸ ha)
    · intro a ha b hb2 hab
      obtain ⟨g, hg, rfl⟩ := List.mem_map.1 hb2
      obtain ⟨hg1, hg2⟩ := List.mem_filter.1 hg
      rw [← List.append_assoc] at ha
      rcases List.mem_append.1 ha with ha | ha
      · exact hd3 a ha _ (List.mem_map.2 ⟨g, hg1, rfl⟩) hab
      · rw [List.mem_singleton.1 ha, he] at hab
        simp [← hab] at hg2
  | joinUrgent e hl hb =>
    obtain ⟨_, hd⟩ := h
    refine ⟨by simp only [Reloc.length, List.length_append, List.length_singleton] at hl ⊢; omega, ?_⟩
    have hp : (relocBlocks { r with urgent := r.urgent ++ [e] }).Perm (e.block :: relocBlocks r) := by
      unfold relocBlocks
      simp only [List.map_append, List.map_cons, List.map_nil]
      rw [← List.append_assoc, List.append_assoc _ [e.block]]
      exact List.perm_middle
    exact hp.nodup_iff.2 (List.nodup_cons.2 ⟨hb, hd⟩)
  | joinNormal e hl hb =>
    obtain ⟨_, hd⟩ := h
    refine ⟨by simp only [Reloc.length, List.length_append, List.length_singleton] at hl ⊢; omega, ?_⟩
    have hp : (relocBlocks { r with normal := r.normal ++ [e] }).Perm (e.block :: relocBlocks r) := by
      unfold relocBlocks
      simp only [List.map_append, List.map_cons, List.map_nil]
      rw [← List.append_assoc]
      exact List.perm_append_singleton _ _
    exact hp.nodup_iff.2 (List.nodup_cons.2 ⟨hb, hd⟩)
  | displace e hn hb =>
    obtain ⟨hl, hd⟩ := h
    have hlen : r.normal.dropLast.length + 1 = r.normal.length := by
      have := List.length_pos_iff.2 hn
      simp; omega
    refine ⟨by simp only [Reloc.length, List.length_append, List.length_singleton] at hl ⊢; omega, ?_⟩
    have hp : (relocBlocks { r with normal := r.normal.dropLast, urgent := r.urgent ++ [e] }).Perm
        (e.block :: relocBlocks { r with normal := r.normal.dropLast }) := by
      unfold relocBlocks
      simp only [List.map_append, List.map_cons, List.map_nil]
      rw [← List.append_assoc, List.append_assoc _ [e.block]]
      exact List.perm_middle
    have hs : (relocBlocks { r with normal := r.normal.dropLast }).Sublist (relocBlocks r) :=
      List.Sublist.append (List.Sublist.refl _) ((List.dropLast_sublist _).map _)
    exact hp.nodup_iff.2 (List.nodup_cons.2 ⟨fun hm => hb (hs.subset hm), hs.nodup hd⟩)
  | take e x he hu hn hx =>
    obtain ⟨hq, hlen⟩ := queueHead_dropHead he
    refine h.sub (by simp only [Reloc.length, hu, hn] at hlen ⊢; omega) ?_
    unfold relocBlocks
    rw [hu, hn, hx, List.append_assoc, List.append_assoc, hq]
    exact List.sublist_append_right _ _

/-! ## Staging buffer -/

theorem StagingChange.fits {a x : Staging} (c : StagingChange a x) (h : StagingFits a) : StagingFits x := by
  obtain ⟨he, hs⟩ := h
  cases c with
  | keep x hx ho hr => exact ⟨by simpa [occupancy, hx] using he, le_trans hr hs⟩
  | place r hr => exact ⟨he, by simpa using hr⟩
  | drop p => exact ⟨le_trans (List.length_filter_le _ _) he, hs⟩
  | update f hk ho hi => exact ⟨by simpa [occupancy] using he, hs⟩
  | issue order hi => exact ⟨by simpa [occupancy] using he, hs⟩
  | allocate e hl ho hst hn => exact ⟨by simpa [occupancy] using hl, hs⟩

/-- Entries of one order are one entry. -/
theorem StagingOrdered.eq_of_order {a : Staging} (h : StagingOrdered a) {e f : Entry} (he : e ∈ a.entries)
    (hf : f ∈ a.entries) (ho : e.order = f.order) : e = f := by
  have hn : (a.entries.map (·.order)).Nodup := by
    rw [List.Nodup, List.pairwise_map]
    exact h.1.imp fun hlt => Nat.ne_of_lt hlt
  exact List.inj_on_of_nodup_map hn he hf ho

/-- An entry with no other of its line is the only one of its line. -/
theorem eq_of_no_other {a : Staging} (h : StagingOrdered a) {e f : Entry} (he : e ∈ a.entries) (hf : f ∈ a.entries)
    (hl : e.line = f.line) (hn : hasOther a e = false) : e = f := by
  by_contra hne
  have ho : f.order ≠ e.order := fun ho => hne (h.eq_of_order he hf ho.symm)
  unfold hasOther at hn
  rw [List.any_eq_false] at hn
  have := hn f hf
  simp [hl, ho] at this

theorem StagingChange.ordered {a x : Staging} (c : StagingChange a x) (h : StagingOrdered a) : StagingOrdered x := by
  have h' := h
  obtain ⟨hp, hb, hopen, hiss⟩ := h'
  cases c with
  | keep x hx ho hr => exact ⟨hx ▸ hp, by rw [hx, ho]; exact hb, by rw [hx]; exact hopen, by rw [hx]; exact hiss⟩
  | place r hr => exact h
  | drop p =>
    have hs : (a.entries.filter p).Sublist a.entries := List.filter_sublist
    exact ⟨hp.sublist hs, fun e he => hb e (hs.subset he),
      fun e he f hf => hopen e (hs.subset he) f (hs.subset hf),
      fun e he f hf => hiss e (hs.subset he) f (hs.subset hf)⟩
  | update f hk ho hi =>
    refine ⟨?_, ?_, ?_, ?_⟩
    · rw [List.pairwise_map]
      exact hp.imp fun hr => by rw [(hk _).2, (hk _).2]; exact hr
    · intro e he
      obtain ⟨e0, h0, rfl⟩ := List.mem_map.1 he
      rw [(hk e0).2]
      exact hb e0 h0
    · intro e he g hg hl se sg
      obtain ⟨e0, he0, rfl⟩ := List.mem_map.1 he
      obtain ⟨g0, hg0, rfl⟩ := List.mem_map.1 hg
      rw [(hk e0).1, (hk g0).1] at hl
      have : e0 = g0 := by
        rcases ho e0 he0 se with h1 | h1
        · rcases ho g0 hg0 sg with h2 | h2
          · exact hopen e0 he0 g0 hg0 hl h1 h2
          · exact (eq_of_no_other h hg0 he0 hl.symm h2).symm
        · exact eq_of_no_other h he0 hg0 hl h1
      rw [this]
    · intro e he g hg se sg
      obtain ⟨e0, he0, rfl⟩ := List.mem_map.1 he
      obtain ⟨g0, hg0, rfl⟩ := List.mem_map.1 hg
      rw [hiss e0 he0 g0 hg0 (hi e0 he0 se) (hi g0 hg0 sg)]
  | issue order hi =>
    have hk : ∀ e : Entry, (if e.order = order then { e with state := .issued } else e).order = e.order := by
      intro e; split <;> rfl
    have hkl : ∀ e : Entry, (if e.order = order then { e with state := .issued } else e).line = e.line := by
      intro e; split <;> rfl
    have hopn : ∀ e : Entry, (if e.order = order then { e with state := .issued } else e).state = .opened →
        e.state = .opened := by
      intro e he
      split at he
      · cases he
      · exact he
    refine ⟨?_, ?_, ?_, ?_⟩
    · rw [List.pairwise_map]
      exact hp.imp fun hr => by rw [hk, hk]; exact hr
    · intro e he
      obtain ⟨e0, h0, rfl⟩ := List.mem_map.1 he
      rw [hk]
      exact hb e0 h0
    · intro e he g hg hl se sg
      obtain ⟨e0, he0, rfl⟩ := List.mem_map.1 he
      obtain ⟨g0, hg0, rfl⟩ := List.mem_map.1 hg
      rw [hkl, hkl] at hl
      rw [hopen e0 he0 g0 hg0 hl (hopn e0 se) (hopn g0 sg)]
    · intro e he g hg se sg
      obtain ⟨e0, he0, rfl⟩ := List.mem_map.1 he
      obtain ⟨g0, hg0, rfl⟩ := List.mem_map.1 hg
      have horder : ∀ e1 ∈ a.entries, (if e1.order = order then { e1 with state := .issued } else e1).state = .issued →
          e1.order = order := by
        intro e1 h1 s1
        by_cases heq : e1.order = order
        · exact heq
        · rw [if_neg heq] at s1
          rcases hi with ⟨e2, h2, ho2, s2⟩ | hnone
          · rw [hiss e1 h1 e2 h2 s1 s2]; exact ho2
          · exact absurd s1 (hnone e1 h1)
      rw [h.eq_of_order he0 hg0 ((horder e0 he0 se).trans (horder g0 hg0 sg).symm)]
  | allocate e hl ho hst hn =>
    have hnew : ∀ f ∈ a.entries, f.line = e.line → f.state ≠ .opened := by
      intro f hf hfl hfo
      rw [List.any_eq_false] at hn
      exact hn f hf (by simp [isOpenOf, hfl, hfo])
    refine ⟨?_, ?_, ?_, ?_⟩
    · rw [List.pairwise_append]
      refine ⟨hp, by simp, fun f hf g hg => ?_⟩
      rw [List.mem_singleton.1 hg, ho]
      exact hb f hf
    · intro f hf
      rcases List.mem_append.1 hf with hf | hf
      · exact Nat.lt_succ_of_lt (hb f hf)
      · rw [List.mem_singleton.1 hf, ho]
        exact Nat.lt_succ_self _
    · intro f hf g hg hlg sf sg
      rcases List.mem_append.1 hf with hf | hf <;> rcases List.mem_append.1 hg with hg | hg
      · exact hopen f hf g hg hlg sf sg
      · rw [List.mem_singleton.1 hg] at hlg
        exact absurd sf (hnew f hf hlg)
      · rw [List.mem_singleton.1 hf] at hlg
        exact absurd sg (hnew g hg hlg.symm)
      · rw [List.mem_singleton.1 hf, List.mem_singleton.1 hg]
    · intro f hf g hg sf sg
      rcases List.mem_append.1 hf with hf | hf <;> rcases List.mem_append.1 hg with hg | hg
      · exact hiss f hf g hg sf sg
      · rw [List.mem_singleton.1 hg, hst] at sg; cases sg
      · rw [List.mem_singleton.1 hf, hst] at sf; cases sf
      · rw [List.mem_singleton.1 hf, List.mem_singleton.1 hg]

/-! ## A power-on reset -/

theorem powerCycle_array (s : State) (h : ArrayCanonical s.array) : ArrayCanonical s.powerCycle.array := by
  show ArrayCanonical (abandonArrayOp s)
  unfold abandonArrayOp
  split
  · exact endArrayOp_canonical h _
  · exact h

end Sys2Proof.Machine
end

