-- ==== Sys2Proof/Laws/StepChanges.lean ====
section
/-! SUPPORT. The changes of the operations of each block, of each command, and of a step. -/

namespace Sys2Proof.Machine

namespace Changes

variable {s t : State}

/-! ## Arbiter -/

theorem issueHostRead (h : Changes s t) (r : ReadRecord) : Changes s (t.issueHostRead r) :=
  (h.host fun f => f.issueFirst).issueOp _ _ _ _ _ _

/-- What the port offers is the head of its queue. -/
theorem hostOffer_head {p : HostPort} {r : ReadRecord} (h : hostOffer p = some r) : ∃ rest, p.queue = r :: rest := by
  unfold hostOffer at h
  split at h
  · split at h
    · cases h
    · cases h; exact ⟨_, by assumption⟩
  · cases h

theorem answerLostRead (h : Changes s t) {r : ReadRecord} {rest : List ReadRecord} (hq : t.host.queue = r :: rest) :
    Changes s (t.answerLostRead r) := by
  have h1 := h.host fun f => f.answerHead hq .poison
  exact h1.lowerFence r.addr

theorem issueCommit (h : Changes s t) : Changes s t.issueCommit := by
  unfold State.issueCommit
  split
  · exact (h.commit (.inl (by rfl))).issueOp _ _ _ _ _ _
  · exact h

/-- What the engine offers is a step of its record. -/
theorem copyOffer_record {r : Reloc} {x : RelocRecord} {a b : Nat} (h : copyOffer r = some (x, a, b)) : r.record = some x := by
  unfold copyOffer at h
  split at h
  · split at h
    · split at h
      · cases h; assumption
      · cases h
      · cases h
    · cases h
  · cases h

theorem issueCopy (h : Changes s t) : Changes s t.issueCopy := by
  unfold State.issueCopy
  split
  · rename_i x src sp ho
    have hr := copyOffer_record ho
    split
    · exact (h.record (by rfl) (by rfl) (by rfl) (by simp [hr, recordKey])).issueOp _ _ _ _ _ _
    · exact (h.record (by rfl) (by rfl) (by rfl) (by rfl)).issueOp _ _ _ _ _ _
  · exact h

/-- The drain works on an ISSUED entry if there is one. -/
theorem drainOffer_issued {a : Staging} {e : Entry} {k : OpKind} (h : drainOffer a = some (e, k)) :
    (∃ f ∈ a.entries, f.order = e.order ∧ f.state = .issued) ∨ ∀ f ∈ a.entries, f.state ≠ .issued := by
  unfold drainOffer at h
  split at h
  · cases h
  · split at h
    · rename_i f hf
      cases h
      exact .inl ⟨e, List.mem_of_find?_eq_some hf, rfl, by simpa using List.find?_some hf⟩
    · rename_i hf
      refine .inr fun f hm => ?_
      simpa using List.find?_eq_none.1 hf f hm

theorem issueDrain (h : Changes s t) : Changes s t.issueDrain := by
  unfold State.issueDrain
  split
  · rename_i e k ho
    have hd : drainOffer t.staging = some (e, k) := by
      unfold State.drainOffered at ho
      split at ho
      · split at ho
        · cases ho
        · cases ho; assumption
      · cases ho
    have h1 := h.staging (.issue e.order (drainOffer_issued hd))
      (.update (f := fun f => if f.order = e.order then { f with state := .issued } else f) (by intro f; split <;> rfl) _ rfl rfl)
    exact (h1.staging (.keep { t.staging with
      entries := t.staging.entries.map fun f => if f.order = e.order then { f with state := .issued } else f
      drainOp := some { order := e.order, kind := k } } rfl rfl (le_refl _)) ⟨rfl, rfl⟩).issueOp _ _ _ _ _ _
  · exact h

theorem issuePatrol (h : Changes s t) : Changes s t.issuePatrol := by
  unfold State.issuePatrol
  split
  · exact (h.patrol _).issueOp _ _ _ _ _ _
  · exact h

theorem issueLoader (h : Changes s t) : Changes s t.issueLoader :=
  (h.loader (by exact id) (by rfl)).issueOp _ _ _ _ _ _

theorem arbitrateFrom (h : Changes s t) (n : Nat) : Changes s (t.arbitrateFrom n) := by
  induction n generalizing t with
  | zero => exact h
  | succ n ih =>
    unfold State.arbitrateFrom
    split
    · exact h
    · split
      · exact h
      · exact h.issueLoader
      · exact h.issueCommit
      · exact h.issueCopy
      · exact h.issueDrain
      · exact h.issuePatrol
      · split
        · rename_i ho
          obtain ⟨rest, hq⟩ := hostOffer_head ho
          split
          · exact ih (h.answerLostRead hq)
          · exact h.issueHostRead _
        · exact h

theorem arbitrate (h : Changes s t) : Changes s t.arbitrate := h.arbitrateFrom _

/-! ## Host port -/

theorem protocolError (h : Changes s t) (hr : t.host.reserve < Config.responseRoom) (a : Response) (b : Option Nat) (k x n : Nat) :
    Changes s (t.protocolError a b k x n) := (h.respond hr _).append _

/-- The head of the channel is taken from it. -/
theorem pop (h : Changes s t) {r : HostRequest} {rest : List HostRequest} (hc : t.host.channel = r :: rest) :
    Changes s (t.setHost { t.host with channel := rest }) :=
  h.host fun f => f.channel fun tag addr hm => f.presented tag addr (by rw [hc]; exact List.mem_cons_of_mem _ hm)

theorem takeRead (h : Changes s t) {tag addr : Nat} {rest : List HostRequest} (hc : t.host.channel = .read tag addr :: rest)
    (hr : t.host.reserve < Config.responseRoom) :
    Changes s ((t.setHost { t.host with channel := rest }).takeRead tag addr) := by
  have h1 := h.pop hc
  unfold State.takeRead
  split
  · exact h1.protocolError hr _ _ _ _ _
  · rename_i hn
    split
    · exact h1.respond hr _
    · exact h1.respond hr _
    · exact h1.respond hr _
    · dsimp only
      split
      · exact h1.respond hr _
      · have h2 := h.raiseFence addr
        refine h2.host fun f => ?_
        have f1 : PortFits { t.host with channel := rest } (t.raiseFence addr).staging := f.channel fun tag addr hm =>
          f.presented tag addr (by show _ ∈ t.host.channel; rw [hc]; exact List.mem_cons_of_mem _ hm)
        exact f1.queueRead hr (r := { tag := tag, addr := addr, snapshot := _, coverage := _, issued := false })
          (f.presented tag addr (by show _ ∈ t.host.channel; rw [hc]; exact List.mem_cons_self ..)) rfl
          (by simpa using hn) addr

/-- A merge changes neither the line, nor the order, nor the state of the entry; in THROUGH mode the tag joins its tags. -/
theorem mergeInto_same (st : Staging) (tag : Nat) (data : Line) (mask : Mask) (e : Entry) :
    (mergeInto st tag data mask e).line = e.line ∧ (mergeInto st tag data mask e).order = e.order ∧
      (mergeInto st tag data mask e).state = e.state ∧
      (mergeInto st tag data mask e).tags = if st.mode = .through then e.tags ++ [tag] else e.tags := by
  unfold mergeInto
  dsimp only
  exact ⟨rfl, rfl, rfl, rfl⟩

theorem stageWrite_change (a : Staging) (tag line : Nat) (data : Line) (mask : Mask) (hl : occupancy a < Config.stagingEntries) :
    StagingChange a (Machine.stageWrite a tag line data mask) := by
  unfold Machine.stageWrite
  split
  · have hs : ∀ e, (if isOpenOf line e = true then mergeInto a tag data mask e else e).line = e.line ∧
        (if isOpenOf line e = true then mergeInto a tag data mask e else e).order = e.order ∧
        (if isOpenOf line e = true then mergeInto a tag data mask e else e).state = e.state := by
      intro e
      have := mergeInto_same a tag data mask e
      by_cases hx : isOpenOf line e = true
      · rw [if_pos hx]; exact ⟨this.1, this.2.1, this.2.2.1⟩
      · rw [if_neg hx]; exact ⟨rfl, rfl, rfl⟩
    exact .update _ (fun e => ⟨(hs e).1, (hs e).2.1⟩) (fun e _ he => .inl ((hs e).2.2 ▸ he)) (fun e _ he => (hs e).2.2 ▸ he)
  · rename_i hn
    exact .allocate (newEntry a tag line data mask) hl rfl rfl (by simpa [newEntry] using hn)

/-- In BACK mode a write changes no tags. -/
theorem stageWrite_back (a : Staging) (tag line : Nat) (data : Line) (mask : Mask) (hm : a.mode = .back) :
    SameTags a (Machine.stageWrite a tag line data mask) := by
  unfold Machine.stageWrite
  split
  · refine .update (f := fun e => if isOpenOf line e then mergeInto a tag data mask e else e) (fun e => ?_) _ rfl rfl
    split
    · rw [(mergeInto_same a tag data mask e).2.2.2, hm]; rfl
    · rfl
  · exact ⟨by simp [newEntry, hm], rfl⟩

/-- In THROUGH mode a write's tag joins the tags of one entry (R45). -/
theorem stageWrite_through (a : Staging) (tag line : Nat) (data : Line) (mask : Mask) (hm : a.mode = .through)
    (ho : StagingOrdered a) :
    (tag :: a.entries.flatMap (·.tags)).Perm ((Machine.stageWrite a tag line data mask).entries.flatMap (·.tags)) ∧
      (Machine.stageWrite a tag line data mask).hostSlots = a.hostSlots := by
  unfold Machine.stageWrite
  split
  · rename_i hx
    refine ⟨?_, rfl⟩
    obtain ⟨e, he, hopen⟩ := List.any_eq_true.1 hx
    obtain ⟨l1, l2, hl⟩ := List.append_of_mem he
    have hline : ∀ f, isOpenOf line f = true → f.line = line ∧ f.state = .opened := by
      intro f hf; simpa [isOpenOf] using hf
    have hp := ho.1
    have hu := ho.2.2.1
    rw [hl] at hp hu
    have hno : ∀ f, f ∈ l1 ∨ f ∈ l2 → isOpenOf line f = false := by
      intro f hf
      by_contra hc
      have hc := hline f (by simpa using hc)
      have hee := hline e hopen
      have hfe : f = e := hu f (by rcases hf with hf | hf <;> simp [hf]) e (by simp) (by rw [hc.1, hee.1]) hc.2 hee.2
      rw [List.pairwise_append] at hp
      rcases hf with hf | hf
      · have := hp.2.2 f hf e (by simp)
        rw [hfe] at this; omega
      · have := (List.pairwise_cons.1 hp.2.1).1 f hf
        rw [hfe] at this; omega
    have hmap : ∀ l : List Entry, (∀ f ∈ l, isOpenOf line f = false) →
        (l.map fun e => if isOpenOf line e then mergeInto a tag data mask e else e) = l := by
      intro l hl
      rw [List.map_congr_left (g := id) (fun f hf => by simp [hl f hf])]
      simp
    show (tag :: a.entries.flatMap (·.tags)).Perm
      ((a.entries.map fun e => if isOpenOf line e then mergeInto a tag data mask e else e).flatMap (·.tags))
    rw [hl, List.map_append, List.map_cons, hmap l1 fun f hf => hno f (.inl hf), hmap l2 fun f hf => hno f (.inr hf), if_pos hopen]
    simp only [List.flatMap_append, List.flatMap_cons, (mergeInto_same a tag data mask e).2.2.2, hm, if_true]
    refine List.Perm.symm ?_
    rw [List.append_assoc, ← List.append_assoc, List.singleton_append, ← List.append_assoc]
    exact List.perm_middle
  · refine ⟨?_, rfl⟩
    simp only [List.flatMap_append, newEntry, hm, if_true]
    exact (List.perm_append_singleton _ _).symm

theorem takeWrite (h : Changes s t) (tag addr : Nat) (data : Line) (mask : Mask)
    (hl : occupancy t.staging < Config.stagingEntries) (hr : t.host.reserve < Config.responseRoom) :
    Changes s (t.takeWrite tag addr data mask) := by
  unfold State.takeWrite
  split
  · exact h.protocolError hr _ _ _ _ _
  · split
    · exact h.protocolError hr _ _ _ _ _
    · rename_i hn
      split
      · exact h.respond hr _
      · exact h.respond hr _
      · exact h.respond hr _
      · have hc := stageWrite_change t.staging tag addr data mask hl
        dsimp only
        split
        · rename_i hm
          exact (h.staging hc (stageWrite_back _ _ _ _ _ hm)).respond hr _
        · rename_i hm
          refine h.hosting { t.host with writeTags := tableSet t.host.writeTags tag addr } (.single hc) fun o f => ?_
          have := stageWrite_through t.staging tag addr data mask hm o
          exact f.addWrite hr (by simpa using hn) addr this.1 (congrArg (List.map (·.tag)) this.2)

theorem takeBarrier (h : Changes s t) (tag : Nat) (hs : t.staging.hostSlots.length < Config.hostBarrierSlots)
    (hr : t.host.reserve < Config.responseRoom) : Changes s (t.takeBarrier tag) := by
  unfold State.takeBarrier
  split
  · exact h.protocolError hr _ _ _ _ _
  · rename_i hn
    split
    · exact h.respond hr _
    · exact h.placeBarrier tag hs hr (by simpa using hn)

/-- A request that the conditions of Table 4-2 admit is taken from the channel. -/
theorem takeRequest (h : Changes s t) {r : HostRequest} {rest : List HostRequest} (hq : t.host.channel = r :: rest)
    (hc : t.canTake r = true) : Changes s ((t.setHost { t.host with channel := rest }).takeRequest r) := by
  unfold State.canTake at hc
  simp only [Bool.and_eq_true, decide_eq_true_eq] at hc
  cases r with
  | read tag addr => exact h.takeRead hq hc.1.2
  | write tag addr data mask => exact (h.pop hq).takeWrite tag addr data mask (by simpa using hc.2) hc.1.2
  | barrier tag => exact (h.pop hq).takeBarrier tag (by simpa using hc.2) hc.1.2

theorem takeHeld (h : Changes s t) (n : Nat) : Changes s (t.takeHeld n) := by
  induction n generalizing t with
  | zero => exact h
  | succ n ih =>
    unfold State.takeHeld
    split
    · exact h
    · split
      · exact h.host fun f => f.channel (by simp)
      · split
        · rename_i r rest hq _ hc
          exact ih ((h.takeRequest hq hc).arbitrate)
        · exact h

theorem settle (h : Changes s t) : Changes s t.settle := (h.arbitrate).takeHeld _

/-- A request whose tag, if it reads, is one of 32 is presented. -/
theorem present (h : Changes s t) (r : HostRequest) (hr : ∀ tag addr, r = .read tag addr → tag < 32) : Changes s (t.present r) := by
  refine settle (h.host fun f => f.channel fun tag addr hm => ?_)
  rcases List.mem_append.1 hm with hm | hm
  · exact f.presented tag addr hm
  · exact hr tag addr (List.mem_singleton.1 hm).symm

theorem lowerFences (h : Changes s t) (l : List ReadRecord) : Changes s (t.lowerFences l) := by
  induction l generalizing t with
  | nil => exact h
  | cons r rest ih => exact ih (h.lowerFence _)

@[simp] theorem lowerFences_host (t : State) (l : List ReadRecord) : (t.lowerFences l).host = t.host := by
  induction l generalizing t with
  | nil => rfl
  | cons r rest ih => exact ih _

theorem linkResetPort (h : Changes s t) : Changes s t.linkResetPort := by
  unfold State.linkResetPort
  dsimp only
  have hf : ∀ a : Staging, StagingChange a { a with entries := a.entries.map fun e => { e with tags := [] } } := fun a =>
    .update (fun e => { e with tags := [] }) (fun _ => ⟨rfl, rfl⟩) (fun _ _ he => .inl he) (fun _ _ he => he)
  refine (h.lowerFences _).hosting _ (.tail (.single (hf _)) (.keep (Machine.dropHostPromises _) rfl rfl (Nat.zero_le _)))
    fun _ _ => ?_
  exact .emptied _ _ (by simp [Machine.dropHostPromises, List.flatMap_map]) rfl

theorem openPort (h : Changes s t) : Changes s t.openPort := by
  unfold State.openPort
  split
  · exact h.host fun f => (f.ready .inReset).channel (by simp)
  · exact h.host fun f => f.ready _

theorem endAbandoned (h : Changes s t) (line : Nat) : Changes s (t.endAbandoned line) :=
  (h.lowerFence _).host fun f => f.endAbandoned _

theorem handOn (h : Changes s t) (block : Nat) (d : Delivered) : Changes s (t.handOn block d) := by
  unfold State.handOn
  split
  · exact h.post _
  · split
    · exact (h.count _).post _
    · exact h

theorem endHostRead (h : Changes s t) {r : ReadRecord} {rest : List ReadRecord} (hq : t.host.queue = r :: rest) (d : Delivered) :
    Changes s (t.endHostRead r d) := by
  unfold State.endHostRead
  dsimp only
  have h1 : ∀ x, Changes s (((t.setHost { t.host with queue := t.host.queue.drop 1 }).answerRead r.tag x).lowerFence
      r.addr) := fun x => (h.host fun f => f.answerHead hq x).lowerFence r.addr
  split
  · exact h1 _
  · exact (h1 _).handOn _ _

theorem hostReadAnswered (h : Changes s t) (d : Delivered) : Changes s (t.hostReadAnswered d) := by
  unfold State.hostReadAnswered
  split
  · exact (h.endAbandoned _).settle
  · split
    · rename_i hq
      split
      · exact (h.endHostRead hq _).settle
      · exact h
    · exact h

theorem poisonQueued_eq (t : State) (l : List ReadRecord) :
    t.poisonQueued l = (t.lowerFences l).setHost (freeReads t.host (fun _ => .poison) (l.map (·.tag))) := by
  induction l generalizing t with
  | nil => simp [State.poisonQueued, State.lowerFences, freeReads, State.setHost]
  | cons r rest ih =>
    have hc : ∀ (l : List ReadRecord) (u : State) (x : HostPort), (u.setHost x).lowerFences l = (u.lowerFences l).setHost x := by
      intro l
      induction l with
      | nil => intro u x; rfl
      | cons q k ihk => intro u x; exact ihk (u.lowerFence q.addr) x
    unfold State.poisonQueued
    rw [ih]
    have hl : ((t.answerRead r.tag .poison).lowerFence r.addr).lowerFences rest =
        (t.lowerFences (r :: rest)).setHost (t.answerRead r.tag .poison).host :=
      hc rest (t.lowerFence r.addr) (t.answerRead r.tag .poison).host
    rw [hl]
    simp [State.setHost, freeReads, State.answerRead, State.lowerFence, State.setStaging]

theorem failHostPort (h : Changes s t) : Changes s t.failHostPort := by
  unfold State.failHostPort
  dsimp only
  rw [poisonQueued_eq]
  refine (h.lowerFences _).host fun f => ?_
  rw [lowerFences_host] at f
  exact f.poisoned

/-! ## Watch table and lost list -/

theorem takeReport (h : Changes s t) (block bits : Nat) : Changes s (t.takeReport block bits) := by
  unfold State.takeReport
  split
  · exact h
  · split
    · exact (h.watch (.drop _ _)).post _
    · exact h.watch (.record block bits)

theorem requestAll (h : Changes s t) (l : List WatchEntry) : Changes s (t.requestAll l) := by
  induction l generalizing t with
  | nil => exact h
  | cons e rest ih => exact ih (h.post _)

theorem setThreshold (h : Changes s t) (n : Nat) : Changes s (t.setThreshold n) :=
  (h.watch (.drop (fun e => decide (e.count < n)) n)).requestAll _

theorem forgetWatch (h : Changes s t) (block : Nat) : Changes s (t.setWatch (Machine.forgetWatch t.watch block)) := by
  unfold Machine.forgetWatch
  split
  · exact h.watch (.keep _ _)
  · exact h.watch (.drop _ _)

/-- A block joins the lost list and leaves the remap table (R34, steps 1 and 2): it is not queued, and if it is the record's, the record
has no spare any more. -/
theorem loseBlock (h : Changes s t) (block : Nat) (hn : t.xlat.lost.length < Config.lostBlocks)
    (hq : RelocFits t.reloc → ∀ e, e ∈ t.reloc.urgent ∨ e ∈ t.reloc.normal → e.block ≠ block)
    (hp : ∀ q, t.reloc.record = some q → q.block = block → q.spare = none) :
    Changes s ((t.setXlat { t.xlat with lost := insertRising t.xlat.lost block }).dropRemap block) := by
  have go : ∀ y : Xlat, SameLimits t.xlat y → (t.Agrees → RelocFits t.reloc → TablesAgree y t.reloc (switchWritten t.commit) t.loader) →
      Changes s (t.setXlat y) := fun y hy k => h.tables y t.reloc hy .refl fun f a => k a f
  unfold State.dropRemap
  split
  · rename_i e he
    have he : tableGet t.xlat.remap block = some e := he
    have hu : t.Agrees → e.state = .inUse := fun a => a.notPending hp he
    obtain ⟨sp, st⟩ := e
    simp only [State.retireSpare, count_eq]
    have key : ∀ (y : Xlat), y = { t.xlat with
          lost := insertRising t.xlat.lost block
          remap := tableErase t.xlat.remap block
          spares := tableSet t.xlat.spares sp .retired } → t.Agrees → RelocFits t.reloc → st = .inUse →
        TablesAgree y t.reloc (switchWritten t.commit) t.loader := by
      rintro y rfl a f rfl
      refine a.lose (a.1.loseMapped he hn) rfl (fun c hc => ?_) ?_ rfl (fun e he' => ?_) (hq f)
      · simp only [tableGet_tableErase]; rw [if_neg hc]
      · simp only [tableGet_tableErase, if_true]
      · rw [he] at he'; cases he'; rfl
    have h1 : ∀ y : Xlat, SameLimits t.xlat y → (st = .inUse → y = { t.xlat with
          lost := insertRising t.xlat.lost block
          remap := tableErase t.xlat.remap block
          spares := tableSet t.xlat.spares sp .retired }) → Changes s (t.setXlat y) :=
      fun y hy hi => go y hy fun a f => key y (hi (hu a)) a f (hu a)
    split
    · rename_i p m _
      have h2 := h1 { t.xlat with
          lost := insertRising t.xlat.lost block
          remap := tableErase t.xlat.remap block
          spares := tableSet (tableSet t.xlat.spares sp .retired) p .retired } ⟨rfl, rfl, rfl, rfl⟩
        fun hi => by cases hi
      exact (((h2.counted countRetired).append _).counted countRetired).append _
    · exact ((h1 { t.xlat with
          lost := insertRising t.xlat.lost block
          remap := tableErase t.xlat.remap block
          spares := tableSet t.xlat.spares sp .retired } ⟨rfl, rfl, rfl, rfl⟩ fun _ => rfl).counted countRetired).append _
    · exact ((h1 { t.xlat with
          lost := insertRising t.xlat.lost block
          remap := tableErase t.xlat.remap block
          spares := tableSet t.xlat.spares sp .retired } ⟨rfl, rfl, rfl, rfl⟩ fun _ => rfl).counted countRetired).append _
  · rename_i he
    have he : tableGet t.xlat.remap block = none := he
    exact go _ ⟨rfl, rfl, rfl, rfl⟩ fun a f => a.lose (a.1.lose he hn) rfl (fun _ _ => rfl) he rfl
      (fun e he' => by rw [he] at he'; cases he') (hq f)

theorem addLost (h : Changes s t) (block : Nat) (req : LostRequester)
    (hq : RelocFits t.reloc → ∀ e, e ∈ t.reloc.urgent ∨ e ∈ t.reloc.normal → e.block ≠ block)
    (hp : ∀ q, t.reloc.record = some q → q.block = block → q.spare = none) : Changes s (t.addLost block req) := by
  unfold State.addLost
  split
  · exact h
  · split
    · exact h.post _
    · rename_i hn
      exact ((((((h.loseBlock block (by omega) hq hp).patrol _).forgetWatch block).discardBlock block).append _).post _).post _

/-! ## Relocation queue and engine -/

theorem endRelocate (h : Changes s t) (m : Bool) (r : LongResult) (n : Nat) : Changes s (t.endRelocate m r n) := by
  unfold State.endRelocate
  split
  · exact h.post _
  · exact h

theorem dropRequest (h : Changes s t) (block : Nat) (cause : RelocCause) (n : Nat) :
    Changes s (t.dropRequest block cause n) := h.append _

theorem logQueued (h : Changes s t) (block : Nat) (cause : RelocCause) : Changes s (t.logQueued block cause) := h.append _

theorem callEngine (h : Changes s t) : Changes s t.callEngine := by
  unfold State.callEngine
  split
  · exact h.post _
  · exact h

theorem requestMigrating (h : Changes s t) (x : RelocRecord) (hx : t.reloc.record = some x) (cause : RelocCause) :
    Changes s (t.requestMigrating x cause) := by
  cases cause with
  | management => exact h.record (by rfl) (by rfl) (by rfl) (by simp [hx, recordKey])
  | programFail => exact (h.record (by rfl) (by rfl) (by rfl) (by simp [hx, recordKey])).dropRequest _ _ _
  | uncorrectable => exact h.dropRequest _ _ _
  | corrThreshold => exact h.dropRequest _ _ _

theorem mergeRequest (h : Changes s t) (block : Nat) (cause : RelocCause) : Changes s (t.mergeRequest block cause) := by
  have hf : ∀ e, (if e.block = block then mergeEntry cause e else e).block = e.block := by
    intro e; split <;> rfl
  unfold State.mergeRequest
  split
  · rename_i e he
    have hb : e.block = block := by simpa using List.find?_some he
    have hm := List.mem_of_find?_eq_some he
    split
    · refine (h.reloc (.promote block (mergeEntry cause e) hb ⟨e, hm, hb⟩) ⟨rfl, rfl, fun g hg => ?_, fun g hg => ?_⟩).logQueued _ _
      · rcases List.mem_append.1 hg with hg | hg
        · exact ⟨g, .inl hg, rfl⟩
        · exact ⟨e, .inr hm, by rw [List.mem_singleton.1 hg]; rfl⟩
      · exact ⟨g, .inr (List.mem_of_mem_filter hg), rfl⟩
    · have := h.reloc (.relabel id (fun f => if f.block = block then mergeEntry cause f else f) (fun _ => rfl) hf)
        (.relabel (fun _ => rfl) hf)
      simpa using this
  · have := h.reloc (.relabel (fun f => if f.block = block then mergeEntry cause f else f) id hf (fun _ => rfl))
      (.relabel hf (fun _ => rfl))
    simpa using this

/-- The block of a request that the queue does not merge or ignore is in neither the queue nor the record. -/
theorem not_mem_relocBlocks {r : Reloc} {block : Nat} (hq : r.isQueued block = false)
    (hr : ∀ x, r.record = some x → x.block ≠ block) : block ∉ relocBlocks r := by
  unfold relocBlocks
  simp only [Reloc.isQueued, Bool.or_eq_false_iff, List.any_eq_false, decide_eq_true_eq] at hq
  simp only [List.mem_append, Option.mem_toList, List.mem_map, not_or, Option.map_eq_some_iff]
  refine ⟨⟨?_, ?_⟩, ?_⟩
  · rintro ⟨x, hx, he⟩; exact hr x hx he
  · rintro ⟨e, hm, he⟩; exact hq.1 e hm he
  · rintro ⟨e, hm, he⟩; exact hq.2 e hm he

/-- A new entry of a block that is not lost joins the tail of its class, the loader having ended. -/
theorem joinQueue (h : Changes s t) (block : Nat) (cause : RelocCause) {r y : Reloc} (hl : t.loader.isLoading = false)
    (hb : block ∉ t.xlat.lost) (hy : Relation.ReflTransGen RelocChange t.reloc y)
    (hr : r = t.reloc ∨ r = { t.reloc with normal := t.reloc.normal.dropLast })
    (hq : y = if isUrgent cause then { r with urgent := r.urgent ++
        [{ block := block, cause := cause, byManagement := decide (cause = .management) }] }
      else { r with normal := r.normal ++
        [{ block := block, cause := cause, byManagement := decide (cause = .management) }] }) : Changes s (t.setReloc y) := by
  refine h.tables t.xlat y ⟨rfl, rfl, rfl, rfl⟩ hy fun _ a => a.join hl
    (e := { block := block, cause := cause, byManagement := decide (cause = .management) }) hb ?_ ?_ ?_
  · rcases hr with rfl | rfl <;> rw [hq] <;> split <;> rfl
  · rcases hr with rfl | rfl <;> rw [hq] <;> split <;> rfl
  · have hsub : ∀ f, f ∈ r.urgent ∨ f ∈ r.normal → f ∈ t.reloc.urgent ∨ f ∈ t.reloc.normal := by
      rcases hr with rfl | rfl
      · exact fun f hf => hf
      · exact fun f hf => hf.imp id fun hf => (List.dropLast_sublist _).subset hf
    intro f hf
    rw [hq] at hf
    split at hf
    · rcases hf with hf | hf
      · rcases List.mem_append.1 hf with hf | hf
        · exact .inr (hsub f (.inl hf))
        · exact .inl (List.mem_singleton.1 hf)
      · exact .inr (hsub f (.inr hf))
    · rcases hf with hf | hf
      · exact .inr (hsub f (.inl hf))
      · rcases List.mem_append.1 hf with hf | hf
        · exact .inr (hsub f (.inr hf))
        · exact .inl (List.mem_singleton.1 hf)

theorem enqueue (h : Changes s t) (block : Nat) (cause : RelocCause) (hl : t.reloc.length < Config.queueEntries)
    (hb : block ∉ relocBlocks t.reloc) (hld : t.loader.isLoading = false) (hbl : block ∉ t.xlat.lost) :
    Changes s (t.enqueue block cause) := by
  unfold State.enqueue
  have h1 : Changes s (t.setReloc (if isUrgent cause then
      { t.reloc with urgent := t.reloc.urgent ++
        [{ block := block, cause := cause, byManagement := decide (cause = .management) }] }
      else { t.reloc with normal := t.reloc.normal ++
        [{ block := block, cause := cause, byManagement := decide (cause = .management) }] })) := by
    refine h.joinQueue block cause hld hbl ?_ (.inl rfl) rfl
    split
    · exact .single (.joinUrgent _ hl hb)
    · exact .single (.joinNormal _ hl hb)
  have h2 := (h1.logQueued block cause).forgetWatch block
  dsimp only
  split
  · exact h2.callEngine
  · exact h2

/-- An urgent request that displaces a normal entry. -/
theorem displaceEnqueue (h : Changes s t) (e : QueueEntry) (block : Nat) (cause : RelocCause)
    (hu : isUrgent cause = true) (hn : t.reloc.normal ≠ []) (hb : block ∉ relocBlocks t.reloc)
    (hld : t.loader.isLoading = false) (hbl : block ∉ t.xlat.lost) :
    Changes s ((t.displace e).enqueue block cause) := by
  have h1 : Changes s ((t.dropRequest e.block e.cause 2).endRelocate e.byManagement .dropped 0) :=
    (h.dropRequest _ _ _).endRelocate _ _ _
  have key : ∀ n : State, Changes s n → n.reloc = t.reloc → n.xlat = t.xlat → n.loader = t.loader →
      Changes s ((n.setReloc { t.reloc with normal := t.reloc.normal.dropLast }).enqueue block cause) := by
    intro n hc hr hx hlo
    have h2 := hc.joinQueue block cause (r := { t.reloc with normal := t.reloc.normal.dropLast })
      (y := { t.reloc with
        normal := t.reloc.normal.dropLast,
        urgent := t.reloc.urgent ++
          [{ block := block, cause := cause, byManagement := decide (cause = .management) }] })
      (by rw [hlo]; exact hld) (by rw [hx]; exact hbl) (by rw [hr]; exact .single (.displace _ hn hb))
      (by rw [hr]; exact .inr rfl) (by simp [hu])
    have h3 := (h2.logQueued block cause).forgetWatch block
    unfold State.enqueue
    simp only [hu, if_true]
    split
    · exact h3.callEngine
    · exact h3
  have hm : t.displace e =
      ((t.dropRequest e.block e.cause 2).endRelocate e.byManagement .dropped 0).setReloc
        { t.reloc with normal := t.reloc.normal.dropLast } := by
    unfold State.displace State.endRelocate
    split <;> rfl
  rw [hm]
  refine key _ h1 ?_ ?_ ?_ <;> (unfold State.endRelocate; split <;> rfl)

theorem urgentRequest (h : Changes s t) (block : Nat) (cause : RelocCause) (hu : isUrgent cause = true)
    (hb : block ∉ relocBlocks t.reloc) (hld : t.loader.isLoading = false) (hbl : block ∉ t.xlat.lost) :
    Changes s (t.urgentRequest block cause) := by
  have hmem : (∀ e, e ∈ t.reloc.urgent ∨ e ∈ t.reloc.normal → e.block ≠ block) ∧
      ∀ q, t.reloc.record = some q → q.block ≠ block := by
    unfold relocBlocks at hb
    simp only [List.mem_append, List.mem_map, Option.mem_toList, Option.map_eq_some_iff, not_or, not_exists, not_and] at hb
    exact ⟨fun e he => he.elim (hb.1.2 e) (hb.2 e), hb.1.1⟩
  unfold State.urgentRequest
  split
  · exact h.enqueue _ _ (by assumption) hb hld hbl
  · split
    · rename_i e he
      exact h.displaceEnqueue e block cause hu (by intro hn; simp [hn] at he) hb hld hbl
    · dsimp only
      split
      · exact (h.dropRequest _ _ _).addLost _ _ (fun _ => hmem.1) fun q hq hqb => absurd hqb (hmem.2 q hq)
      · exact h.dropRequest _ _ _

theorem normalRequest (h : Changes s t) (block : Nat) (cause : RelocCause) (hb : block ∉ relocBlocks t.reloc)
    (hld : t.loader.isLoading = false) (hbl : block ∉ t.xlat.lost) : Changes s (t.normalRequest block cause) := by
  unfold State.normalRequest
  split
  · rename_i hl
    exact h.enqueue _ _ (lt_trans hl (by decide)) hb hld hbl
  · exact (h.dropRequest _ _ _).endRelocate _ _ _

theorem takeRelocRequest (h : Changes s t) (block : Nat) (cause : RelocCause) :
    Changes s (t.takeRelocRequest block cause) := by
  unfold State.takeRelocRequest
  split
  · exact h
  · rename_i hg
    have hld : t.loader.isLoading = false := by
      by_contra hc; exact hg (.inr (.inl (by simpa using hc)))
    split
    · exact h.endRelocate _ _ _
    · rename_i hlost
      have hbl : block ∉ t.xlat.lost := by
        intro hm; exact hlost (by simpa [Xlat.isLost] using hm)
      have main : (∀ x, t.reloc.record = some x → x.block ≠ block) →
          Changes s (if t.reloc.isQueued block = true then t.mergeRequest block cause
            else if isUrgent cause = true then t.urgentRequest block cause else t.normalRequest block cause) := by
        intro hr
        split
        · exact h.mergeRequest _ _
        · rename_i hq
          have hb := not_mem_relocBlocks (by simpa using hq) hr
          split
          · exact h.urgentRequest _ _ (by assumption) hb hld hbl
          · exact h.normalRequest _ _ hb hld hbl
      split
      · rename_i x hx
        split
        · exact h.requestMigrating x hx cause
        · rename_i hne
          exact main fun y hy => by rw [hx] at hy; cases hy; exact hne
      · rename_i hx
        exact main fun y hy => by rw [hx] at hy; cases hy

/-- The record is cleared and the engine IDLE, once no entry is PENDING and no switch is being written. -/
theorem engineIdle (h : Changes s t)
    (k : t.Agrees → NonePending t.xlat ∧ switchWritten t.commit = none ∧ t.loader.isLoading = false) : Changes s t.engineIdle := by
  refine callEngine (h.tables t.xlat _ ⟨rfl, rfl, rfl, rfl⟩ (.single (.keep _ (by rfl) (by rfl) (.inr (by rfl)))) fun _ a => ?_)
  obtain ⟨k1, k2, k3⟩ := k a
  rw [k2]
  exact a.ended a.1 rfl rfl k1 k3 (by simp) ⟨nofun, nofun⟩ (by simp) (fun _ hf => hf)

/-! Changes of holds and states of staging entries keep their tags. -/

theorem abandonHolds (h : Changes s t) (block : Nat) :
    Changes s (t.setStaging (Machine.abandonHolds t.staging block)) := by
  have h1 := h.staging (.update (fun e => if e.block = block ∧ e.hold = .migrating then { e with hold := .none } else e)
    (fun e => by split <;> exact ⟨rfl, rfl⟩) (fun e _ he => by split at he <;> exact .inl he)
    (fun e _ he => by split at he <;> exact he)) (.update (fun e => by split <;> rfl) _ rfl rfl)
  exact h1.staging (.keep (Machine.abandonHolds t.staging block) rfl rfl (le_refl _)) ⟨rfl, rfl⟩

theorem releaseHolds (h : Changes s t) (block : Nat) :
    Changes s (t.setStaging (Machine.releaseHolds t.staging block)) := by
  have h1 := h.staging (.update (fun e => if e.block = block then { e with hold := .none } else e)
    (fun e => by split <;> exact ⟨rfl, rfl⟩) (fun e _ he => by split at he <;> exact .inl he)
    (fun e _ he => by split at he <;> exact he)) (.update (fun e => by split <;> rfl) _ rfl rfl)
  exact h1.staging (.keep (Machine.releaseHolds t.staging block) rfl rfl (le_refl _)) ⟨rfl, rfl⟩

theorem returnedState_opened {a : Staging} {e : Entry} (h : returnedState a e = .opened) : hasOther a e = false := by
  unfold returnedState at h
  split at h
  · rename_i hc; exact hc.2
  · cases h

theorem returnedState_not_issued {a : Staging} {e : Entry} : returnedState a e ≠ .issued := by
  unfold returnedState
  split <;> decide

theorem markMigrating (h : Changes s t) (block : Nat) :
    Changes s (t.setStaging (Machine.markMigrating t.staging block)) := by
  have h1 := h.staging (.update (markEntry t.staging block)
    (fun e => by unfold markEntry; split
                 · exact ⟨rfl, rfl⟩
                 · split <;> exact ⟨rfl, rfl⟩)
    (fun e _ he => by
      unfold markEntry at he
      split at he
      · exact .inl he
      · split at he
        · exact .inr (returnedState_opened he)
        · exact .inl he)
    (fun e _ he => by
      unfold markEntry at he
      split at he
      · exact he
      · split at he
        · exact absurd he returnedState_not_issued
        · exact he))
    (.update (fun e => by unfold markEntry; split
                          · rfl
                          · split <;> rfl) _ rfl rfl)
  exact h1.staging (.keep (Machine.markMigrating t.staging block) rfl rfl (le_refl _)) ⟨rfl, rfl⟩

/-- Tables and a relocation that `u` can be given, when `t` can. -/
def Reaches (s t u : State) : Prop :=
  ∀ (x : Xlat) (r : Reloc), SameLimits t.xlat x → Relation.ReflTransGen RelocChange t.reloc r →
    (RelocFits t.reloc → t.Agrees → TablesAgree x r (switchWritten t.commit) t.loader) → Changes s ((u.setXlat x).setReloc r)

/-- A relocation is abandoned (R117): when the tables without its PENDING status have no PENDING entry. -/
theorem abandon {u : State} (hu : Reaches s t u) (x : RelocRecord) (n : Nat) (hlim : SameLimits t.xlat u.xlat)
    (hx : u.reloc.record = some x) (hr : Relation.ReflTransGen RelocChange t.reloc u.reloc)
    (hl : u.xlat.lost = t.xlat.lost) (hnb : u.xlat.nb = t.xlat.nb)
    (hsub : ∀ f, f ∈ u.reloc.urgent ∨ f ∈ u.reloc.normal → f ∈ t.reloc.urgent ∨ f ∈ t.reloc.normal)
    (k : t.Agrees → TablesFit u.xlat ∧ NonePending u.xlat ∧ switchWritten t.commit = none ∧ t.loader.isLoading = false) :
    Changes s (u.abandon x n) := by
  have hlim' : SameLimits t.xlat (dropPending u.xlat x.block) := by
    obtain ⟨a1, a2, a3, a4⟩ := hlim
    obtain ⟨b1, b2, b3, b4⟩ := dropPending_limits u.xlat x.block
    exact ⟨b1.trans a1, b2.trans a2, b3.trans a3, b4.trans a4⟩
  have agree : ∀ z : Reloc, z.urgent = u.reloc.urgent → z.normal = u.reloc.normal →
      (z.engine = .idle ∧ z.record = none ∨ z.engine = .commitWait ∧ z.record ≠ none) → t.Agrees →
      TablesAgree (dropPending u.xlat x.block) z (switchWritten t.commit) t.loader := by
    intro z h1 h2 h3 a
    obtain ⟨k1, k2, k3, k4⟩ := k a
    rw [TablesAgree.dropPending_same k2, k3]
    refine a.ended k1 hl hnb k2 k4 ?_ ?_ ?_ ?_
    · rcases h3 with h3 | h3 <;> simp [h3]
    · rcases h3 with h3 | h3 <;> simp [h3]
    · intro q hq _
      rcases h3 with h3 | h3
      · rw [h3.2] at hq; cases hq
      · exact h3.1
    · intro f hf
      rw [h1, h2] at hf
      exact hsub f hf
  unfold State.abandon
  dsimp only
  split
  · have h1 := hu (dropPending u.xlat x.block) { u.reloc with
        engine := .commitWait
        stepOut := false
        record := some { x with spare := none, buffer := none, srcFailed := true, purpose := some .lost } } hlim'
      (hr.tail (.keep _ rfl rfl (.inl (by simp [hx])))) fun _ a => agree _ rfl rfl (.inr ⟨rfl, by simp⟩) a
    have h2 := (h1.append { kind := .relocAbandoned, block := some x.block, cause := some x.cause, value := n }).staging
      (.keep { u.staging with migrating := none } (by rfl) (by rfl) (by exact le_refl _)) ⟨rfl, rfl⟩
    refine h2.addLost x.block .engine (fun fit e he hb => ?_) fun q hq _ => ?_
    · have hd := fit.2
      unfold relocBlocks at hd
      have hd : ((some x.block).toList ++ u.reloc.urgent.map (·.block) ++ u.reloc.normal.map (·.block)).Nodup := hd
      simp only [Option.toList_some, List.cons_append, List.nodup_cons, List.mem_append, List.mem_map,
        not_or, not_exists, not_and] at hd
      exact he.elim (fun he => hd.1.1.2 e he hb) fun he => hd.1.2 e he hb
    · cases hq
      rfl
  · have h1 : Changes s ((u.setXlat (dropPending u.xlat x.block)).setReloc
        { u.reloc with engine := .idle, record := none, stepOut := false }) :=
      hu _ _ hlim' (hr.tail (.keep _ rfl rfl (.inr rfl))) fun _ a => agree _ rfl rfl (.inl ⟨rfl, rfl⟩) a
    have h2 := ((h1.append { kind := .relocAbandoned, block := some x.block, cause := some x.cause, value := n }).abandonHolds
      x.block).endRelocate x.byManagement .abandoned 0
    have hm : ∀ v : State, (v.endRelocate x.byManagement .abandoned 0).setReloc
          { v.reloc with engine := .idle, record := none, stepOut := false } =
        (v.setReloc { v.reloc with engine := .idle, record := none, stepOut := false }).endRelocate x.byManagement .abandoned 0 := by
      intro v
      unfold State.endRelocate
      split <;> rfl
    have hrl : ∀ v : State, (v.endRelocate x.byManagement .abandoned 0).reloc = v.reloc := by
      intro v
      unfold State.endRelocate
      split <;> rfl
    unfold State.engineIdle
    rw [hrl, hm]
    exact h2.callEngine

/-- The head is one of the queue's entries, and the rest are too. -/
theorem dropHead_sub (r : Reloc) (f : QueueEntry) (h : f ∈ (dropHead r).urgent ∨ f ∈ (dropHead r).normal) :
    f ∈ r.urgent ∨ f ∈ r.normal := by
  unfold dropHead at h
  split at h
  · rename_i hx
    rcases h with h | h
    · rw [hx]; exact .inl (List.mem_cons_of_mem _ h)
    · exact .inr h
  · rename_i hx
    rcases h with h | h
    · exact .inl h
    · exact .inr (List.mem_of_mem_drop h)

theorem takeHead (h : Changes s t) : Changes s t.takeHead := by
  unfold State.takeHead
  split
  · rename_i hi
    split
    · rename_i e he
      dsimp only
      split
      · rename_i i hs
        refine settle ?_
        have h1 := h.tables { t.xlat with
            spares := tableSet t.xlat.spares i .pending
            remap := tableSet t.xlat.remap e.block { spare := i, state := .pending (priorOf t.xlat e.block) false } }
          { dropHead t.reloc with
            engine := if (t.staging.entries.any fun f => decide (f.block = e.block) && programming t.staging f) = true
              then .prepare else .copy
            record := some { newRecord e (hasSrcFailed t.staging e.block) with
              source := some (relocSource t.xlat e.block), spare := some i } }
          ⟨rfl, rfl, rfl, rfl⟩ (.single (.take e _ he rfl rfl rfl))
          fun _ a => a.prepare hi.1 he hs (dropHead_sub t.reloc) rfl rfl rfl rfl (by dsimp only; split <;> simp)
        exact (h1.post _).markMigrating e.block
      · rename_i hs
        refine settle (abandon (t := t) ?_ _ _ ⟨rfl, rfl, rfl, rfl⟩ rfl ?_ rfl rfl (dropHead_sub t.reloc) fun a => ?_)
        · intro x r hx hr k
          exact h.tables x r hx hr k
        · exact .single (.take e _ he rfl rfl rfl)
        · have hrec := a.2.idle.1 hi.1
          have hmem : t.reloc.urgent ≠ [] ∨ t.reloc.normal ≠ [] := by
            unfold queueHead at he
            split at he
            · rename_i hx; rw [hx]; exact .inl (by simp)
            · exact .inr fun hn => by simp [hn] at he
          exact ⟨a.1, a.none_pending hrec, a.no_switch (by rw [hi.1]; decide), a.loading_false (.inr hmem)⟩
    · exact h
  · exact h

theorem endPrepare (h : Changes s t) (r : ProgramResult) : Changes s (t.endPrepare r) := by
  unfold State.endPrepare
  split
  · rename_i hp
    split
    · rename_i x hx
      refine arbitrate (h.tables t.xlat _ ⟨rfl, rfl, rfl, rfl⟩ (.single (.keep _ (by rfl) (by rfl) (.inl (by simp [hx])))) fun _ a => ?_)
      exact a.endPrepare hp.1 rfl (by simp [hx, recordKey]) rfl rfl
    · exact h
  · exact h

theorem copyPoisoned (h : Changes s t) (x : RelocRecord) : Changes s (t.copyPoisoned x) := ((h.count _).count _).append _

theorem stepOut (h : Changes s t) (b : Bool) : Changes s (t.setReloc { t.reloc with stepOut := b }) :=
  h.record (by rfl) (by rfl) (by rfl) (by rfl)

@[simp] theorem count_reloc (t : State) (f : Counters → Counters) : (t.count f).reloc = t.reloc := by
  rw [count_eq]; rfl

@[simp] theorem append_reloc (t : State) (b : EventBody) : (t.append b).reloc = t.reloc := rfl

@[simp] theorem copyPoisoned_reloc (t : State) (x : RelocRecord) : (t.copyPoisoned x).reloc = t.reloc := by
  simp [State.copyPoisoned]

theorem copyReadDone (h : Changes s t) (d : Delivered) : Changes s (t.copyReadDone d) := by
  unfold State.copyReadDone
  dsimp only
  have h0 := h.stepOut false
  split
  · exact h0
  · split
    · rename_i x _ hx
      refine arbitrate ?_
      split
      · exact (h0.copyPoisoned x).record (by rfl) (by rfl) (by rfl) (by simp [hx, recordKey])
      · exact h0.record (by rfl) (by rfl) (by rfl) (by simp [hx, recordKey])
    · exact h0

theorem copyComplete (h : Changes s t) (x : RelocRecord) (hx : t.reloc.record = some x) (he : t.reloc.engine = .copy) :
    Changes s (t.copyComplete x) :=
  (h.tables (markCopied t.xlat x.block)
    { t.reloc with engine := .commitWait, record := some { x with buffer := none, purpose := some .switch } }
    (markCopied_limits _ _) (.single (.keep _ rfl rfl (.inl (by simp [hx]))))
    fun _ a => a.copyComplete hx he rfl rfl rfl rfl rfl rfl rfl).post _

/-- The remap table with a new spare in the block's entry (R27). -/
def givenSpare (remap : List (Nat × RemapEntry)) (block spare : Nat) : List (Nat × RemapEntry) :=
  match tableGet remap block with
  | some e => tableSet remap block { e with spare := spare }
  | none => remap

/-- What a spare failure leaves (R27): another spare, or the entry without its PENDING status. -/
theorem spareFailed_cases (s : State) (block failed : Nat) (retry : Bool) :
    (∃ v, spareToAllocate { s.xlat with spares := tableSet s.xlat.spares failed .retired } = some v ∧
      s.spareFailed block failed retry = (((s.retireSpare failed block).takeSpare v).setXlat { s.xlat with
        spares := tableSet (tableSet s.xlat.spares failed .retired) v .pending
        remap := givenSpare s.xlat.remap block v }, some v)) ∨
    s.spareFailed block failed retry = ((s.retireSpare failed block).setXlat
      (dropPending { s.xlat with spares := tableSet s.xlat.spares failed .retired } block), none) := by
  have hx : (s.retireSpare failed block).xlat = { s.xlat with spares := tableSet s.xlat.spares failed .retired } := by
    unfold State.retireSpare
    rw [count_eq]
    rfl
  have hx2 : ∀ v, ((s.retireSpare failed block).takeSpare v).xlat =
      { s.xlat with spares := tableSet (tableSet s.xlat.spares failed .retired) v .pending } := by
    intro v
    have h0 : ((s.retireSpare failed block).takeSpare v).xlat =
      { (s.retireSpare failed block).xlat with spares := tableSet (s.retireSpare failed block).xlat.spares v .pending } := rfl
    rw [h0, hx]
  unfold State.spareFailed
  dsimp only
  split
  · rename_i v hv
    refine .inl ⟨v, ?_, ?_⟩
    · rw [hx] at hv
      split at hv
      · exact hv
      · cases hv
    · rw [hx2]
      unfold givenSpare
      dsimp only
      cases tableGet s.xlat.remap block with
      | some e => rfl
      | none =>
        refine Prod.ext ?_ rfl
        dsimp only
        rw [← hx2 v]
        rfl
  · exact .inr (by rw [hx])

theorem copyFailed (h : Changes s t) (x : RelocRecord) (hx : t.reloc.record = some x) (he : t.reloc.engine = .copy) (sp : Nat)
    (hsp : x.spare = some sp) : Changes s (t.copyFailed x sp) := by
  have entry : t.Agrees → ∃ p, tableGet t.xlat.remap x.block = some { spare := sp, state := .pending p false } := by
    intro a
    obtain ⟨sp', p, h1, h2⟩ := a.entry hx (.inr he)
    rw [hsp] at h1
    cases h1
    exact ⟨p, h2⟩
  unfold State.copyFailed
  dsimp only
  rw [count_eq]
  rcases spareFailed_cases (t.setHealth (countedHealth t.health countProgramFailure)) x.block sp (decide (x.attempt < 3)) with
    ⟨v, hv, heq⟩ | heq
  · rw [heq]
    have h1 := h.tables { t.xlat with
        spares := tableSet (tableSet t.xlat.spares sp .retired) v .pending
        remap := givenSpare t.xlat.remap x.block v }
      { t.reloc with
        record := some { x with spare := some v, attempt := x.attempt + 1, cursor := 0, poisoned := 0, buffer := none } }
      ⟨rfl, rfl, rfl, rfl⟩ (.single (.keep _ rfl rfl (.inl (by simp [hx])))) fun _ a => by
        obtain ⟨p, hp⟩ := entry a
        unfold givenSpare
        simp only [hp]
        exact a.replace hx he hp hv rfl rfl rfl rfl rfl rfl rfl
    simp only [State.retireSpare, count_eq]
    exact (((h1.counted countProgramFailure).counted countRetired).append _).post _
  · rw [heq]
    simp only [State.retireSpare, count_eq]
    refine abandon (t := t) ?_ x _ ?_ hx .refl ?_ ?_ (fun f hf => hf) fun a => ?_
    · intro y r hy hr k
      exact (((h.tables y r hy hr k).counted countProgramFailure).counted countRetired).append _
    · exact dropPending_limits { t.xlat with spares := tableSet t.xlat.spares sp .retired } x.block
    · exact TablesAgree.dropPending_lost _ _
    · exact TablesAgree.dropPending_nb _ _
    · obtain ⟨p, hp⟩ := entry a
      exact ⟨a.1.failAndDrop hp, a.dropped_none hp _, a.no_switch (by rw [he]; decide), a.loading_false (.inl (by rw [hx]; simp))⟩

theorem copyProgramDone (h : Changes s t) (r : ProgramResult) : Changes s (t.copyProgramDone r) := by
  unfold State.copyProgramDone
  dsimp only
  have h0 := h.stepOut false
  split
  · exact h0
  · split
    · rename_i x he hx
      have hx' : (t.setReloc { t.reloc with stepOut := false }).reloc.record = some x := hx
      have he' : (t.setReloc { t.reloc with stepOut := false }).reloc.engine = .copy := he
      split
      · split
        · exact (h0.record (by rfl) (by rfl) (by rfl) (by simp [hx, recordKey])).arbitrate
        · exact h0.copyComplete x hx' he'
      · split
        · exact (h0.copyFailed x hx' he' _ (by assumption)).settle
        · exact h0
    · exact h0

/-- The engine is released by the completion of a commit: none is being written, and the switch it carried is applied. -/
theorem engineReleased (h : Changes s t) (switch : Option Nat) (hw : switchWritten t.commit = none)
    (hp : ∀ b e, switch = some b → tableGet t.xlat.remap b = some e → e.state = .inUse) : Changes s (t.engineReleased switch) := by
  unfold State.engineReleased
  split
  · exact h
  · split
    · rename_i x he hx
      split
      · rename_i hpu
        split
        · rename_i hs
          refine (h.tables t.xlat _ ⟨rfl, rfl, rfl, rfl⟩ (.single (.keep _ (by rfl) (by rfl) (.inl (by simp [hx])))) fun _ a => ?_).post _
          rw [hw]
          refine a.ended a.1 rfl rfl ?_ (a.loading_false (.inl (by rw [hx]; simp))) (by simp) ⟨nofun, nofun⟩ (by simp) (fun _ hf => hf)
          intro b e hb
          obtain ⟨sp, st⟩ := e
          cases st with
          | inUse => rfl
          | pending p m =>
            obtain ⟨q, h1, h2, _⟩ := a.2.pendingOf b sp p m hb
            rw [hx] at h1
            cases h1
            exact hp b _ (by rw [hs, h2]) hb
        · exact h
      · rename_i hpu
        refine (h.endRelocate _ _ _).engineIdle fun a => ?_
        have hsame : ∀ v : State, (v.endRelocate x.byManagement .lost 0).xlat = v.xlat ∧
            (v.endRelocate x.byManagement .lost 0).reloc = v.reloc ∧ (v.endRelocate x.byManagement .lost 0).commit = v.commit ∧
            (v.endRelocate x.byManagement .lost 0).loader = v.loader := by
          intro v
          unfold State.endRelocate
          split <;> exact ⟨rfl, rfl, rfl, rfl⟩
        obtain ⟨e1, e2, e3, e4⟩ := hsame t
        unfold State.Agrees at a
        rw [e1, e2, e3, e4] at a
        rw [e1, e3, e4]
        refine ⟨?_, hw, a.loading_false (.inl (by rw [hx]; simp))⟩
        intro b e hb
        obtain ⟨sp, st⟩ := e
        cases st with
        | inUse => rfl
        | pending p m =>
          obtain ⟨q, h1, h2, h3, h4⟩ := a.2.pendingOf b sp p m hb
          rw [hx] at h1
          cases h1
          split at h4
          · rw [hpu] at h4; cases h4.2
          · rw [he] at h4; simp at h4
      · exact h
    · exact h

theorem releaseDone (h : Changes s t) : Changes s t.releaseDone := by
  unfold State.releaseDone
  split
  · exact h
  · split
    · rename_i x he hx
      dsimp only
      rw [count_eq]
      refine (((((h.releaseHolds x.block).append _).health _ ?_).endRelocate _ _ _).engineIdle ?_).arbitrate
      · unfold countedHealth
        split <;> exact le_refl _
      · intro a
        have hsame : ∀ v : State, ∀ n, (v.endRelocate x.byManagement .relocated n).xlat = v.xlat ∧
            (v.endRelocate x.byManagement .relocated n).reloc = v.reloc ∧
            (v.endRelocate x.byManagement .relocated n).commit = v.commit ∧
            (v.endRelocate x.byManagement .relocated n).loader = v.loader := by
          intro v n
          unfold State.endRelocate
          split <;> exact ⟨rfl, rfl, rfl, rfl⟩
        unfold State.Agrees at a
        rw [(hsame _ _).1, (hsame _ _).2.1, (hsame _ _).2.2.1, (hsame _ _).2.2.2] at a
        rw [(hsame _ _).1, (hsame _ _).2.2.1, (hsame _ _).2.2.2]
        have a : t.Agrees := a
        show NonePending t.xlat ∧ switchWritten t.commit = none ∧ t.loader.isLoading = false
        refine ⟨?_, a.no_switch (by rw [he]; decide), a.loading_false (.inl (by rw [hx]; simp))⟩
        intro b e hb
        obtain ⟨sp, st⟩ := e
        cases st with
        | inUse => rfl
        | pending p m =>
          obtain ⟨q, _, _, _, h4⟩ := a.2.pendingOf b sp p m hb
          rw [he] at h4
          split at h4 <;> simp at h4
    · exact h

theorem failLong (h : Changes s t) (c : LongCode) : Changes s (t.failLong c) := by
  unfold State.failLong
  split
  · exact h
  · exact h.endLong _ _ _

theorem failReloc (h : Changes s t) : Changes s t.failReloc := (h.record (by rfl) (by rfl) (by rfl) (by rfl)).failLong _

/-! ## Commit unit and loader -/

/-- An image is captured (R132); it may carry the switch of the relocation that waits for it. -/
theorem capture (h : Changes s t) : Changes s t.capture := by
  have h1 : Changes s t.joinRequests := (h.commit (.inl (by rfl))).posted _
  exact h1.relocation t.xlat t.reloc _ ⟨rfl, rfl, rfl, rfl⟩ .refl fun _ a => a.captured

theorem takeCommitRequest (h : Changes s t) (p : CommitParty) : Changes s (t.takeCommitRequest p) := by
  unfold State.takeCommitRequest
  split
  · exact h
  · split
    · exact ((h.commit (.inl (by rfl))).capture).arbitrate
    · exact h.commit (.inl (by rfl))

theorem startTimer (h : Changes s t) : Changes s t.startTimer := by
  unfold State.startTimer
  split
  · exact h.patrol _
  · exact h

theorem enterResult (h : Changes s t) (failed : Bool) : Changes s (t.enterResult failed) :=
  ((((h.loader (by intro hx; cases failed <;> cases hx) (by rfl)).reportHealth _).openPort).startTimer).settle

/-- The tables that an image sets (R142). -/
def loadedTables (x : Xlat) (i : FieldImage) (elp : Nat) : Xlat :=
  { x with
    remap := i.remap.map fun e => (e.1, { spare := e.2, state := .inUse })
    spares := i.spares
    lost := i.lost
    elp := elp
    el := elp
    frozen := false }

/-- The values of an image are set while the loader loads: a valid image, or the empty one. -/
theorem loadValues (h : Changes s t) (hl : t.loader.isLoading = true) (i : FieldImage) (elp : Nat)
    (hv : t.Agrees → imageValid t.xlat.nb i = true ∨ i.remap = [] ∧ i.spares = [] ∧ i.lost = []) :
    Changes s (t.loadValues i elp) := by
  have k : t.Agrees → TablesAgree (loadedTables t.xlat i elp) t.reloc (switchWritten t.commit) t.loader := by
    intro a
    refine a.loaded hl ?_ ?_ a.2.classed
    · rcases hv a with hv | ⟨h1, h2, h3⟩
      · exact .load hv rfl rfl rfl
      · exact .empty (by simp [loadedTables, h1]) h2 h3
    · intro b e he
      have he := tableGet_mem he
      simp only [loadedTables, List.mem_map, Prod.mk.injEq] at he
      obtain ⟨q, _, _, rfl⟩ := he
      rfl
  have h1 := h.load (loadedTables t.xlat i elp) t.loader hl k
  have h2 := h1.staging (x := { t.staging with
      mode := modeOf i.config.writeMode, threshold := i.config.drainThreshold, ageTimer := i.config.ageTimer })
    (.keep _ rfl rfl (le_refl _)) ⟨rfl, rfl⟩
  have h3 := h2.watch (.keep i.config.corrThreshold t.watch.failed)
  have h4 := h3.patrol { t.patrol with enable := decide (i.config.patrolEnable = 1), interval := i.config.patrolInterval }
  have h5 := h4.health { t.health with counters := i.counters } (le_refl _)
  exact h5.commit (x := { t.commit with config := i.config }) (.inl rfl)

theorem loadImage (h : Changes s t) (hl : t.loader.isLoading = true) (copy : CopyId) (i : FieldImage)
    (hv : t.Agrees → imageValid t.xlat.nb i = true) : Changes s (t.loadImage copy i) := by
  have h1 := h.loadValues hl i (loadedLimit t.xlat.nb i.elp) fun a => .inl (hv a)
  unfold State.loadImage
  dsimp only
  refine enterResult ?_ _
  split
  · exact h1.commit (.inr rfl)
  · exact (h1.commit (.inr rfl)).append _

theorem firstStart (h : Changes s t) (hl : t.loader.isLoading = true) : Changes s t.firstStart :=
  (((h.loadValues hl _ _ fun _ => .inr ⟨rfl, rfl, rfl⟩).commit (.inl (by rfl))).loader (by exact id) (by rfl)).post _

theorem chooseImage (h : Changes s t) (hl : t.loader.isLoading = true) (a b : CopyClass)
    (ha : t.Agrees → ∀ i, a = .valid i → imageValid t.xlat.nb i = true) (hb : ∀ i, b = .valid i → imageValid t.xlat.nb i = true) :
    Changes s (t.chooseImage a b) := by
  unfold State.chooseImage
  split
  · split
    · exact h.loadImage hl _ _ fun g => ha g _ rfl
    · exact h.loadImage hl _ _ fun _ => hb _ rfl
  · exact h.loadImage hl _ _ fun g => ha g _ rfl
  · exact h.loadImage hl _ _ fun g => ha g _ rfl
  · exact h.loadImage hl _ _ fun _ => hb _ rfl
  · exact h.loadImage hl _ _ fun _ => hb _ rfl
  · exact h.firstStart hl
  · exact h.enterResult _
  · exact h.enterResult _
  · exact h.enterResult _

theorem classField (h : Changes s t) (hl : t.loader.isLoading = true) (c : CopyClass)
    (hc : ∀ i, c = .valid i → imageValid t.xlat.nb i = true) : Changes s (t.classField c) := by
  unfold State.classField
  split
  · have h1 := h.load t.xlat { t.loader with task := .fieldB, line := 0, image := none, classA := some c } hl
      fun a => a.loader (fun _ => hl) fun i hi => hc i (Option.some.inj hi)
    exact h1.arbitrate
  · refine h.chooseImage hl _ _ (fun a i hi => a.2.classed i ?_) hc
    cases hx : t.loader.classA with
    | none => simp [hx] at hi
    | some d => simp [hx] at hi; rw [hi]
  · exact h
  · exact h
  · exact h

theorem classOf_valid {nb : Nat} {o : Option FieldImage} {i : FieldImage} (h : classOf nb o = .valid i) : imageValid nb i = true := by
  unfold classOf at h
  split at h
  · split at h
    · cases h; assumption
    · cases h
  · cases h

theorem fieldLine (h : Changes s t) (hl : t.loader.isLoading = true) (d : Delivered) : Changes s (t.fieldLine d) := by
  unfold State.fieldLine
  split
  · exact h.classField hl _ nofun
  · split
    · exact h.classField hl _ nofun
    · dsimp only
      split
      · exact (h.loader (fun _ => hl) (by rfl)).arbitrate
      · exact h.classField hl _ fun _ => classOf_valid

theorem mfgInvalid (h : Changes s t) (hl : t.loader.isLoading = true) : Changes s t.mfgInvalid := by
  unfold State.mfgInvalid
  split
  · exact (h.loader (fun _ => hl) (by rfl)).arbitrate
  · exact h.enterResult _
  · exact h
  · exact h
  · exact h

/-- The manufacturing record is loaded (R140): the tables stay, and no copy is classed. -/
theorem loadMfg (h : Changes s t) (hl : t.loader.isLoading = true) (r : MfgRecord) : Changes s (t.loadMfg r) := by
  refine arbitrate (h.load { t.xlat with
      defects := r.defects, p := r.defects.length, nb := Config.dataBlocks - r.defects.length }
    { t.loader with state := .loadingField, task := .fieldA, line := 0, image := none, classA := none } hl fun a => ?_)
  exact a.loaded hl (y := { t.xlat with
      defects := r.defects, p := r.defects.length, nb := Config.dataBlocks - r.defects.length }) { a.1 with } (fun b e he => a.none_pending (a.2.loading hl).1 b e he)
    (k := { t.loader with state := .loadingField, task := .fieldA, line := 0, image := none, classA := none }) (by intro i hi; cases hi)

theorem mfgLine (h : Changes s t) (hl : t.loader.isLoading = true) (d : Delivered) : Changes s (t.mfgLine d) := by
  unfold State.mfgLine
  split
  · exact h.mfgInvalid hl
  · dsimp only
    split
    · exact (h.loader (fun _ => hl) (by rfl)).arbitrate
    · split
      · split
        · exact h.loadMfg hl _
        · exact h.mfgInvalid hl
      · exact h.mfgInvalid hl

theorem loaderAnswered (h : Changes s t) (d : Delivered) : Changes s (t.loaderAnswered d) := by
  have h0 : Changes s (t.setLoader { t.loader with readOut := false }) := h.loader (by exact id) (by rfl)
  unfold State.loaderAnswered
  dsimp only
  split
  · rename_i hl
    split
    · exact h0.mfgLine hl _
    · exact h0.mfgLine hl _
    · exact h0.fieldLine hl _
    · exact h0.fieldLine hl _
    · exact h0
  · exact h0

theorem startUp (h : Changes s t) (straps : Fin 4) : Changes s (t.startUp straps) := ((h.pins _).append _).arbitrate

/-- The tables and the image being written stay. -/
def Keeps (s t : State) : Prop := t.xlat = s.xlat ∧ t.commit.writing = s.commit.writing

theorem Keeps.trans {s t u : State} (h : Keeps s t) (k : Keeps t u) : Keeps s u := ⟨k.1.trans h.1, k.2.trans h.2⟩

theorem arbitrateFrom_keeps (n : Nat) (t : State) : Keeps t (t.arbitrateFrom n) := by
  induction n generalizing t with
  | zero => exact ⟨rfl, rfl⟩
  | succ n ih =>
    unfold State.arbitrateFrom
    split
    · exact ⟨rfl, rfl⟩
    · split
      · exact ⟨rfl, rfl⟩
      · exact ⟨rfl, rfl⟩
      · unfold State.issueCommit; split <;> exact ⟨rfl, rfl⟩
      · unfold State.issueCopy
        split
        · split <;> exact ⟨rfl, rfl⟩
        · exact ⟨rfl, rfl⟩
      · unfold State.issueDrain; split <;> exact ⟨rfl, rfl⟩
      · unfold State.issuePatrol; split <;> exact ⟨rfl, rfl⟩
      · split
        · split
          · exact Keeps.trans ⟨rfl, rfl⟩ (ih _)
          · exact ⟨rfl, rfl⟩
        · exact ⟨rfl, rfl⟩

theorem examineBarriers_keeps (t : State) : Keeps t t.examineBarriers := by
  unfold State.examineBarriers State.completeFlush
  dsimp only
  rw [completeBarriers_eq]
  split
  · split <;> exact ⟨rfl, rfl⟩
  · exact ⟨rfl, rfl⟩

theorem takeRequest_keeps (t : State) (r : HostRequest) : Keeps t (t.takeRequest r) := by
  cases r with
  | read tag addr =>
    show Keeps t (t.takeRead tag addr)
    unfold State.takeRead
    split
    · exact ⟨rfl, rfl⟩
    · split
      · exact ⟨rfl, rfl⟩
      · exact ⟨rfl, rfl⟩
      · exact ⟨rfl, rfl⟩
      · dsimp only
        split <;> exact ⟨rfl, rfl⟩
  | write tag addr data mask =>
    show Keeps t (t.takeWrite tag addr data mask)
    unfold State.takeWrite
    split
    · exact ⟨rfl, rfl⟩
    · split
      · exact ⟨rfl, rfl⟩
      · split
        · exact ⟨rfl, rfl⟩
        · exact ⟨rfl, rfl⟩
        · exact ⟨rfl, rfl⟩
        · dsimp only
          split <;> exact ⟨rfl, rfl⟩
  | barrier tag =>
    show Keeps t (t.takeBarrier tag)
    unfold State.takeBarrier
    split
    · exact ⟨rfl, rfl⟩
    · split
      · exact ⟨rfl, rfl⟩
      · exact Keeps.trans ⟨rfl, rfl⟩ (examineBarriers_keeps _)

theorem takeHeld_keeps (n : Nat) (t : State) : Keeps t (t.takeHeld n) := by
  induction n generalizing t with
  | zero => exact ⟨rfl, rfl⟩
  | succ n ih =>
    unfold State.takeHeld
    split
    · exact ⟨rfl, rfl⟩
    · split
      · exact ⟨rfl, rfl⟩
      · split
        · rename_i r rest _ _ _
          exact ((Keeps.trans (s := t) (t := t.setHost { t.host with channel := rest }) ⟨rfl, rfl⟩ (takeRequest_keeps _ r)).trans
            (arbitrateFrom_keeps _ _)).trans (ih _)
        · exact ⟨rfl, rfl⟩

theorem settle_keeps (t : State) : Keeps t t.settle := (arbitrateFrom_keeps _ _).trans (takeHeld_keeps _ _)

theorem reportHealth_keeps (t : State) (i : HealthInput) : Keeps t (t.reportHealth i) := by
  unfold State.reportHealth
  dsimp only
  split
  · exact ⟨rfl, rfl⟩
  · split <;> exact ⟨rfl, rfl⟩

theorem enterResult_keeps (t : State) (failed : Bool) : Keeps t (t.enterResult failed) := by
  have h1 : ∀ u : State, Keeps u u.openPort := fun u => by unfold State.openPort; split <;> exact ⟨rfl, rfl⟩
  have h2 : ∀ u : State, Keeps u u.startTimer := fun u => by unfold State.startTimer; split <;> exact ⟨rfl, rfl⟩
  have h3 : ∀ l : Loader, Keeps t (t.setLoader l) := fun _ => ⟨rfl, rfl⟩
  unfold State.enterResult
  dsimp only
  exact ((((h3 _).trans (reportHealth_keeps _ _)).trans (h1 _)).trans (h2 _)).trans (settle_keeps _)

theorem engineReleased_keeps (t : State) (switch : Option Nat) : Keeps t (t.engineReleased switch) := by
  have h1 : ∀ (u : State) (m : Bool), Keeps u (u.endRelocate m .lost 0) := fun u m => by
    unfold State.endRelocate; split <;> exact ⟨rfl, rfl⟩
  have h2 : ∀ u : State, Keeps u u.engineIdle := fun u => by
    unfold State.engineIdle State.callEngine; split <;> exact ⟨rfl, rfl⟩
  unfold State.engineReleased
  split
  · exact ⟨rfl, rfl⟩
  · split
    · split
      · split <;> exact ⟨rfl, rfl⟩
      · exact (h1 _ _).trans (h2 _)
      · exact ⟨rfl, rfl⟩
    · exact ⟨rfl, rfl⟩

theorem releaseWaiter_keeps (t : State) (switch : Option Nat) (p : CommitParty) : Keeps t (t.releaseWaiter switch p) := by
  unfold State.releaseWaiter
  split
  · exact engineReleased_keeps _ _
  · exact ⟨rfl, rfl⟩
  · split <;> exact ⟨rfl, rfl⟩
  · split
    · exact enterResult_keeps _ _
    · exact ⟨rfl, rfl⟩

theorem releaseWaiter (h : Changes s t) (switch : Option Nat) (p : CommitParty) (hw : switchWritten t.commit = none)
    (hp : ∀ b e, switch = some b → tableGet t.xlat.remap b = some e → e.state = .inUse) :
    Changes s (t.releaseWaiter switch p) := by
  unfold State.releaseWaiter
  split
  · exact h.engineReleased _ hw hp
  · exact h
  · split
    · exact h.post _
    · exact h.post _
    · exact h
    · exact h
    · exact h
  · split
    · exact h.enterResult _
    · exact h

theorem releaseWaiters (h : Changes s t) (switch : Option Nat) (l : List Waiter) (hw : switchWritten t.commit = none)
    (hp : ∀ b e, switch = some b → tableGet t.xlat.remap b = some e → e.state = .inUse) :
    Changes s (t.releaseWaiters switch l) := by
  induction l generalizing t with
  | nil => exact h
  | cons w rest ih =>
    obtain ⟨k1, k2⟩ := releaseWaiter_keeps t switch w.party
    refine ih (h.releaseWaiter _ _ hw hp) ?_ ?_
    · unfold switchWritten at hw ⊢
      rw [k2]
      exact hw
    · rw [k1]
      exact hp

/-- The switch of a completed image is applied, and the commit unit writes no image (R29, R135). -/
theorem switched (h : Changes s t) {w : Writing} {b : Nat} (hw : t.commit.writing = some w) (hb : w.switch = some b) (c : CommitUnit)
    (hc : c.writing = none) : Changes s ((t.setCommit c).applySwitch b) ∧
      ((t.setCommit c).applySwitch b).commit.writing = none ∧
      ∀ e, tableGet ((t.setCommit c).applySwitch b).xlat.remap b = some e → e.state = .inUse := by
  have hn : switchWritten c = none := by unfold switchWritten; rw [hc]; rfl
  unfold State.applySwitch
  split
  · rename_i e he
    have he : tableGet t.xlat.remap b = some e := he
    obtain ⟨sp, st⟩ := e
    dsimp only
    split
    · rename_i p m _
      have h1 := h.relocation { t.xlat with
          remap := tableSet t.xlat.remap b { spare := sp, state := .inUse }, spares := TablesFit.switchedSpares t.xlat sp p }
        t.reloc c ⟨rfl, rfl, rfl, rfl⟩ .refl fun _ a => by
          rw [hn]
          exact a.switched (by unfold switchWritten; rw [hw]; exact hb) he
      have hg : ∀ e, tableGet (tableSet t.xlat.remap b { spare := sp, state := .inUse }) b = some e → e.state = .inUse := by
        intro e he
        simp only [tableGet_tableSet, if_true] at he
        cases he
        rfl
      cases p with
      | some q =>
        simp only [State.retireSpare, count_eq]
        exact ⟨(h1.counted countRetired).append _, hc, hg⟩
      | none => exact ⟨h1, hc, hg⟩
    · exact ⟨h.commit (.inr hn), hc, fun e' he' => by
        have he' : tableGet t.xlat.remap b = some e' := he'
        rw [he] at he'; cases he'; rfl⟩
  · rename_i he
    have he : tableGet t.xlat.remap b = none := he
    exact ⟨h.commit (.inr hn), hc, fun e' he' => by
      have he' : tableGet t.xlat.remap b = some e' := he'
      rw [he] at he'; cases he'⟩

theorem commitDone (h : Changes s t) (w : Writing) (hw : t.commit.writing = some w) : Changes s (t.commitDone w) := by
  unfold State.commitDone
  dsimp only
  have key : ∀ n : State, Changes s n → n.commit.writing = none →
      (∀ b e, w.switch = some b → tableGet n.xlat.remap b = some e → e.state = .inUse) →
      Changes s (if (n.releaseWaiters w.switch (t.commit.waiters.filter (·.current))).commit.followUp = true then
        (n.releaseWaiters w.switch (t.commit.waiters.filter (·.current))).capture.settle
        else (n.releaseWaiters w.switch (t.commit.waiters.filter (·.current))).settle) := by
    intro n hn hc hp
    have h1 := hn.releaseWaiters w.switch (t.commit.waiters.filter (·.current)) (by unfold switchWritten; rw [hc]; rfl) hp
    split
    · exact (h1.capture).settle
    · exact h1.settle
  split
  · rename_i b hb
    obtain ⟨h1, h2, h3⟩ := h.switched hw hb { t.commit with
      newestSeq := w.image.sequence
      holder := some w.target
      writing := none
      waiters := t.commit.waiters.filter fun x => !x.current } rfl
    exact key _ h1 h2 fun b' e hb' he => by rw [hb] at hb'; cases hb'; exact h3 e he
  · rename_i hb
    exact key _ (h.commit (.inr rfl)) rfl fun b' e hb' => by rw [hb] at hb'; cases hb'

theorem failCommitCommand (h : Changes s t) : Changes s t.failCommitCommand := (h.failLong _).failLong _

theorem stopCommit (h : Changes s t) : Changes s t.stopCommit := (h.commit (.inl (by rfl))).failCommitCommand

theorem setCopy_writing (c : CommitUnit) (k : CopyId) (x : CopyState) : (setCopy c k x).writing = c.writing := by
  cases k <;> rfl

theorem copyFailure (h : Changes s t) (w : Writing) (hw : t.commit.writing = some w) : Changes s (t.copyFailure w) := by
  unfold State.copyFailure
  dsimp only
  have hk : switchWritten (setCopy t.commit w.target .failed) = switchWritten t.commit := by
    unfold switchWritten; rw [setCopy_writing]
  rw [count_eq]
  have h1 := ((((h.commit (.inl hk)).append
    { kind := .metadataCopyFailed, line := some (imageLineOf w.step % 64),
      value := imageBlock w.target (imageLineOf w.step) }).counted countProgramFailure).post
    (.healthReport (.copyStates (setCopy t.commit w.target .failed).copyA (setCopy t.commit w.target .failed).copyB)))
  split
  · refine (h1.commit (.inl ?_)).arbitrate
    show w.switch = switchWritten (setCopy t.commit w.target .failed)
    rw [hk]
    unfold switchWritten
    rw [hw]
    rfl
  · exact h1.stopCommit

theorem commitAnswered (h : Changes s t) (r : ProgramResult) : Changes s (t.commitAnswered r) := by
  unfold State.commitAnswered
  dsimp only
  have h0 := h.commit (x := { t.commit with progOut := false }) (.inl rfl)
  split
  · exact h0
  · split
    · rename_i w hw
      split
      · split
        · refine (h0.commit (.inl ?_)).arbitrate
          show w.switch = switchWritten t.commit
          unfold switchWritten
          rw [hw]
          rfl
        · exact h0.commitDone w hw
      · exact h0.copyFailure w hw
    · exact h0

/-! ## The drain's answers -/

theorem drainOpDone (h : Changes s t) : Changes s (t.setStaging { t.staging with drainOp := none }) :=
  h.staging (.keep _ (by rfl) (by rfl) (by rfl)) ⟨by rfl, by rfl⟩

theorem discardFirst (h : Changes s t) : Changes s t.discardFirst := (h.unpost _).discardAll.settle

theorem rmwAnswered (h : Changes s t) (d : Delivered) : Changes s (t.rmwAnswered d) := by
  unfold State.rmwAnswered
  dsimp only
  have h0 := h.drainOpDone
  split
  · exact h0.arbitrate
  · rename_i e _
    split
    · exact h0.discardFirst
    split
    · have h1 := h0.staging (.update
        (fun f => if f.order = e.order then { f with merged := some (mergedLine e d) } else f)
        (fun f => by split <;> exact ⟨rfl, rfl⟩) (fun f _ he => by split at he <;> exact .inl he)
        (fun f _ he => by split at he <;> exact he)) (.update (fun f => by split <;> rfl) _ rfl rfl)
      refine arbitrate (handOn ?_ _ _)
      split
      · exact (h1.count _).append _
      · exact h1
    · exact (h0.handOn _ _).arbitrate

theorem reportPrepare (h : Changes s t) (block : Nat) (r : ProgramResult) : Changes s (t.reportPrepare block r) := by
  unfold State.reportPrepare
  split
  · exact h.post _
  · exact h

theorem freeEntry (h : Changes s t) (e : Entry) (he : e ∈ t.staging.entries) : Changes s (t.freeEntry e) := by
  unfold State.freeEntry
  dsimp only
  rw [answerWrites_eq]
  refine examineBarriers (h.discard (fun f => decide (f.order ≠ e.order)) .durable rfl rfl rfl fun o => ?_)
  have hone : (t.staging.entries.filter fun f => !decide (f.order ≠ e.order)) = [e] := by
    obtain ⟨l1, l2, hl⟩ := List.append_of_mem he
    have hp := o.1
    rw [hl, List.pairwise_append, List.pairwise_cons] at hp
    obtain ⟨_, ⟨h2, _⟩, h3⟩ := hp
    rw [hl, List.filter_append, List.filter_cons_of_pos (by simp)]
    rw [List.filter_eq_nil_iff.2, List.filter_eq_nil_iff.2]
    · rfl
    · intro f hf
      have := h2 f hf
      simp; omega
    · intro f hf
      have := h3 f hf e (by simp)
      simp; omega
  rw [hone]
  simp

theorem failEntries (h : Changes s t) (block order : Nat) :
    Changes s (t.setStaging { t.staging with entries := t.staging.entries.map (failEntry t.staging block order) }) :=
  h.staging (.update _
    (fun e => by
      unfold failEntry
      split
      · exact ⟨rfl, rfl⟩
      · split <;> exact ⟨rfl, rfl⟩)
    (fun e _ he => by
      unfold failEntry at he
      split at he
      · exact .inl he
      · split at he
        · exact .inr (returnedState_opened he)
        · exact .inl he)
    (fun e _ he => by
      unfold failEntry at he
      split at he
      · exact he
      · split at he
        · exact absurd he returnedState_not_issued
        · exact he))
    (.update (fun e => by
      unfold failEntry
      split
      · rfl
      · split <;> rfl) _ rfl rfl)

theorem drainEntry_mem {t : State} {e : Entry} (h : t.drainEntry = some e) : e ∈ t.staging.entries := by
  unfold State.drainEntry at h
  split at h
  · exact List.mem_of_find?_eq_some h
  · cases h

theorem drainAnswered (h : Changes s t) (r : ProgramResult) : Changes s (t.drainAnswered r) := by
  unfold State.drainAnswered
  dsimp only
  have h0 := h.drainOpDone
  split
  · exact h0.arbitrate
  · rename_i e he
    split
    · exact ((h0.freeEntry e (drainEntry_mem (t := t) he)).reportPrepare _ _).settle
    · split
      · exact h0.discardFirst
      · exact ((((h0.failEntries _ _).count _).reportPrepare _ _).post _).arbitrate

/-! ## Patrol scanner -/

theorem endPass (h : Changes s t) : Changes s t.endPass := by
  unfold State.endPass Machine.passWatch
  dsimp only
  split
  · exact ((h.patrol _).append _).watch (.keep _ _)
  · exact ((h.patrol _).append _).watch .halve

theorem nextBlock (h : Changes s t) : Changes s t.nextBlock := by
  unfold State.nextBlock
  split
  · exact h.patrol _
  · exact h.endPass

theorem skipBlocks (h : Changes s t) (n : Nat) : Changes s (t.skipBlocks n) := by
  induction n generalizing t with
  | zero => exact h
  | succ n ih =>
    unfold State.skipBlocks
    split
    · exact ih h.nextBlock
    · exact h

theorem nextLine (h : Changes s t) : Changes s t.nextLine := by
  unfold State.nextLine
  split
  · exact h.patrol _
  · exact h.nextBlock

theorem patrolExpired (h : Changes s t) : Changes s t.patrolExpired := by
  unfold State.patrolExpired
  split
  · dsimp only
    split
    · exact h.patrol _
    · exact (((((h.patrol _).skipBlocks _).patrol _).nextLine)).arbitrate
  · exact h

theorem patrolHandOn (h : Changes s t) (block : Nat) (d : Delivered) : Changes s (t.patrolHandOn block d) := by
  unfold State.patrolHandOn
  split
  · exact h.count _
  · exact h.handOn _ _

theorem patrolAnswered (h : Changes s t) (d : Delivered) : Changes s (t.patrolAnswered d) := by
  unfold State.patrolAnswered
  split
  · dsimp only
    split
    · exact h.patrol _
    · exact (h.patrol _).patrolHandOn _ _
  · exact h

theorem changePatrol (h : Changes s t) (p : Patrol) : Changes s (t.changePatrol p) := by
  unfold State.changePatrol
  dsimp only
  split
  · unfold State.stopTimer
    split
    · exact h.patrol _
    · exact (h.patrol p).patrol _
  · exact (h.patrol p).startTimer

/-! ## Management link -/

theorem finish {r : Reply} (h : Changes s r.state) (seq : Byte) : Changes s (r.finish seq) := h.link _

theorem receive (h : Changes s t) (seq : Byte) {take : State → Reply} (ht : Changes s (take t).state) :
    Changes s (t.receive seq take) := by
  unfold State.receive
  refine h.whenUp ?_
  split
  · exact h.link _
  · exact finish ht seq

theorem takeFrame (h : Changes s t) (c : MgmtCode) (seq : Byte) (params : List Byte) {body : State → Reply}
    (hb : Changes s (body t).state) : Changes s (t.takeFrame c seq params body) := by
  refine h.receive seq ?_
  unfold State.checked
  split
  · exact h
  · exact hb

theorem acceptLong (h : Changes s t) (c : LongCode) (seq : Byte) : Changes s (t.acceptLong c seq) := (h.posted _).link _

theorem reportResult (h : Changes s t) : Changes s t.reportResult.state := by
  unfold State.reportResult
  split
  · exact h
  · split
    · exact h
    · exact h

theorem abortQueued (h : Changes s t) (e : QueueEntry) : Changes s (t.setReloc (Machine.abortQueued t.reloc e)) := by
  unfold Machine.abortQueued
  split
  · exact h.reloc (.remove _ _ List.filter_sublist List.filter_sublist) (.remove List.filter_sublist List.filter_sublist)
  · exact h.reloc (.relabel _ _ (fun f => by split <;> rfl) (fun f => by split <;> rfl))
      (.relabel (fun f => by split <;> rfl) (fun f => by split <;> rfl))

theorem abortLong (h : Changes s t) : Changes s t.abortLong.state := by
  unfold State.abortLong
  split
  · exact h
  · exact h
  · exact h
  · exact (h.staging (.keep { t.staging with flushSlot := none } rfl rfl (le_refl _)) ⟨rfl, rfl⟩).endLong _ _ _
  · split
    · exact h
    · split
      · exact (h.abortQueued _).endLong _ _ _
      · exact h.endLong _ _ _

theorem setConfig (h : Changes s t) (seq : Byte) (params : List Byte) (item low high : Nat)
    (store : Settings → Nat → Settings) {apply : State → Nat → State}
    (ha : ∀ n v, Changes s n → Changes s (apply n v)) :
    Changes s (t.setConfig seq params item low high store apply).state := by
  unfold State.setConfig
  dsimp only
  split
  · exact h
  · split
    · exact ha _ _ (h.append _)
    · exact (((ha _ _ (h.append _)).commit (.inl (by rfl))).acceptLong _ _).post _

theorem setLimit (h : Changes s t) (seq : Byte) (params : List Byte) : Changes s (t.setLimit seq params).state := by
  unfold State.setLimit
  dsimp only
  split
  · exact h
  · rename_i hf
    have hl : ∀ el elp, Changes s (t.setXlat { t.xlat with el := el, elp := elp }) :=
      fun el elp => h.tail (.limit t el elp (by simpa using hf))
    split
    · exact h
    · split
      · exact (hl _ _).append _
      · exact (((hl _ _).append _).acceptLong _ _).post _

theorem controlPatrol (h : Changes s t) (params : List Byte) (action : Nat) (p : Patrol) :
    Changes s (t.controlPatrol params action p).state := by
  unfold State.controlPatrol
  split
  · exact h
  · exact h.changePatrol _

theorem startFlush (h : Changes s t) (seq : Byte) : Changes s (t.startFlush seq).state :=
  (((h.acceptLong _ _).placeFlush).takeEndings).settle

theorem startRelocate (h : Changes s t) (seq : Byte) (params : List Byte) :
    Changes s (t.startRelocate seq params).state := by
  unfold State.startRelocate
  dsimp only
  split
  · exact h
  · exact ((h.acceptLong _ _).takeRelocRequest _ _).takeEndings

/-! ## Commands -/

theorem chooseBefore (h : Changes s t) (o : AnswerOrder) : Changes s (t.chooseBefore o) := by
  cases o
  · exact h.arbitrate
  · exact h

/-- The end of an operation of the array comes first, and changes follow. -/
theorem answerOp (r : OpRecord) (a : ArrayAnswer) (o : AnswerOrder) (s : State) :
    Changes s (s.answerOp r a o) ∨ ∃ x, Changes (s.setArray (endArrayOp s.array x)) (s.answerOp r a o) := by
  unfold State.answerOp
  split
  · exact .inr ⟨.done, (((refl _).useOrder _).endOp _ _).chooseBefore _⟩
  · exact .inr ⟨_, ((refl _).endOp _ _).chooseBefore _⟩
  · exact .inr ⟨.fail, (((refl _).useOrder _).endOp _ _).chooseBefore _⟩
  · exact .inr ⟨.done, (((refl _).useOrder _).endOp _ _).chooseBefore _⟩

theorem timeoutAfter (h : Changes s t) (r : OpRecord) (k : OpKind) (o : AnswerOrder) (e : TimeoutOrder) :
    Changes s (match e with
      | .eventFirst => ((t.append (timeoutEvent r)).endOp r (deliveredTimeout k)).chooseBefore o
      | .deliveryFirst =>
        ((t.endOp r (deliveredTimeout k)).post (.eventAppend (timeoutEvent r))).chooseBefore o) := by
  cases e
  · exact ((h.append _).endOp _ _).chooseBefore _
  · exact ((h.endOp _ _).post _).chooseBefore _

theorem timeoutOp (r : OpRecord) (o : AnswerOrder) (e : TimeoutOrder) (s : State) :
    Changes s (s.timeoutOp r o e) ∨ ∃ x, Changes (s.setArray (endArrayOp s.array x)) (s.timeoutOp r o e) := by
  unfold State.timeoutOp timedOutArray
  cases r.kind with
  | read => exact .inl (timeoutAfter (refl s) r .read o e)
  | program => exact .inr ⟨.fail, timeoutAfter (refl (s.setArray (endArrayOp s.array .fail))) r .program o e⟩

theorem deliver (h : Changes s t) (c : Instr) {take : State → Delivered → State}
    (ht : ∀ n d, Changes s n → Changes s (take n d)) : Changes s (t.deliver c take) := by
  unfold State.deliver
  split
  · exact (ht _ _ (h.takeDelivery _ _)).arbitrate
  · exact h

theorem handOver (h : Changes s t) (c : Instr) {take : State → State} (ht : ∀ n, Changes s n → Changes s (take n)) :
    Changes s (t.handOver c take) :=
  (h.unpost c).whenUp (ht _ (h.unpost c))

theorem releaseReset (h : Changes s t) (straps : Fin 4) : Changes s (t.releaseReset straps) :=
  h.whenUp (h.startUp straps)

/-- The command is the end of an operation at the array (R8, R14). -/
def endsOperation : Instr → Bool
  | .mediaAnswer _ _ _ => true
  | .mediaTimeout _ _ => true
  | _ => false

/-- The command is a power-on reset (R16, R186). -/
def isPowerReset : Instr → Bool
  | .powerOnReset => true
  | .supplyFall => true
  | _ => false

/-- What a command answers: always a next state, reached by changes; after the end of an operation at the array, for the
commands that end one; and through a power-on reset, for the commands that are one. -/
def Answers (c : Instr) (s : State) (o : Host.Outcome State Fault Refusal) : Prop :=
  ∃ t, o = .next t ∧ (Changes s t ∨
    (endsOperation c = true ∧ ∃ x, Changes (s.setArray (endArrayOp s.array x)) t) ∨
    (isPowerReset c = true ∧ ∃ u, Changes s u ∧ t = u.powerCycle))

theorem answers {c : Instr} {o : State} (h : Changes s o) : Answers c s (.next o) := ⟨o, rfl, .inl h⟩

/-! Each command. -/

theorem exec_answers (c : Instr) (s : State) : Answers c s (exec c s) := by
  have r := Changes.refl s
  cases c with
  | powerOnReset => exact ⟨_, rfl, .inr (.inr ⟨rfl, _, r.pins _, rfl⟩)⟩
  | powerOnResetRelease straps =>
    refine answers ?_
    split
    · exact (r.pins _).releaseReset _
    · exact r
  | supplyFall => exact ⟨_, rfl, .inr (.inr ⟨rfl, _, r.pins _, rfl⟩)⟩
  | supplyRestoration straps =>
    refine answers ?_
    split
    · exact (r.pins _).releaseReset _
    · exact r
  | hostLinkResetAssert =>
    refine answers ?_
    split
    · exact r.pins _
    · exact ((r.pins _).linkResetPort).arbitrate
  | hostLinkResetRelease =>
    refine answers ?_
    split
    · exact ((r.pins _).host fun f => f.ready _).settle
    · exact r.pins _
  | read tag addr => exact answers (r.present _ fun _ _ h => by cases h; exact tag.isLt)
  | write tag addr data mask => exact answers (r.present _ nofun)
  | barrier tag => exact answers (r.present _ nofun)
  | responseTaken =>
    refine answers ?_
    split
    · exact r
    · rename_i hr
      exact (r.host fun f => f.taken hr).settle
  | mediaAnswer id answer order =>
    refine ⟨_, rfl, ?_⟩
    split
    · split
      · exact (answerOp _ _ _ s).imp (fun h => h) fun h => .inl ⟨rfl, h⟩
      · exact .inl r
    · exact .inl r
  | mediaTimeout order event =>
    refine ⟨_, rfl, ?_⟩
    split
    · exact (timeoutOp _ _ _ s).imp (fun h => h) fun h => .inl ⟨rfl, h⟩
    · exact .inl r
  | hostReadAnswer => exact answers (r.deliver _ fun _ d h => h.hostReadAnswered d)
  | rmwReadAnswer => exact answers (r.deliver _ fun _ d h => h.rmwAnswered d)
  | drainProgramAnswer => exact answers (r.deliver _ fun _ d h => h.drainAnswered _)
  | copyReadAnswer => exact answers (r.deliver _ fun _ d h => h.copyReadDone d)
  | copyProgramAnswer => exact answers (r.deliver _ fun _ d h => h.copyProgramDone _)
  | commitProgramAnswer => exact answers (r.deliver _ fun _ d h => h.commitAnswered _)
  | patrolReadAnswer => exact answers (r.deliver _ fun _ d h => h.patrolAnswered d)
  | loaderReadAnswer => exact answers (r.deliver _ fun _ d h => h.loaderAnswered d)
  | ageDeadlineExpiry order =>
    refine answers ?_
    split
    · have h1 := r.staging (.update (fun e => if e.order = order then { e with agePassed := true } else e)
        (fun e => by split <;> exact ⟨rfl, rfl⟩) (fun e _ he => by split at he <;> exact .inl he)
        (fun e _ he => by split at he <;> exact he)) (.update (fun e => by split <;> rfl) _ rfl rfl)
      exact h1.arbitrate
    · exact r
  | patrolExpiry => exact answers r.patrolExpired
  | engineTakeHead => exact answers (r.handOver _ fun _ h => h.takeHead)
  | prepareEnd result => exact answers (r.handOver _ fun _ h => h.endPrepare _)
  | relocationRelease => exact answers (r.handOver _ fun _ h => h.releaseDone)
  | relocRequest block cause => exact answers (r.handOver _ fun _ h => (h.takeRelocRequest _ _).settle)
  | commitRequest party => exact answers (r.handOver _ fun _ h => h.takeCommitRequest _)
  | watchReport block bits =>
    refine answers (r.handOver _ fun _ h => ?_)
    split
    · exact h.takeReport _ _
    · exact h
  | lostBlockAddition block requester =>
    refine answers (r.handOver _ fun _ h => ?_)
    split
    · rename_i hb
      simp only [State.addable, Bool.and_eq_true, Bool.not_eq_true'] at hb
      refine (h.addLost _ _ (fun _ e he heb => ?_) fun q hq hqb => ?_).settle
      · have := hb.1.2
        simp only [Reloc.isQueued, Bool.or_eq_false_iff, List.any_eq_false, decide_eq_true_eq] at this
        exact he.elim (fun he => this.1 e he heb) fun he => this.2 e he heb
      · have := hb.2
        unfold Reloc.isMigrating at this
        rw [hq] at this
        simp [hqb] at this
    · exact h
  | healthReport input => exact answers (r.handOver _ fun _ h => h.reportHealth _)
  | eventAppend body =>
    refine answers (r.handOver _ fun _ h => ?_)
    split
    · exact h.append _
    · exact h
  | stagingFailedDiscard => exact answers (r.handOver _ fun _ h => h.discardAll.settle)
  | hostPortFailed => exact answers (r.handOver _ fun _ h => h.failHostPort.settle)
  | watchTableFailed => exact answers (r.handOver _ fun n h => h.watch (.keep n.watch.threshold true))
  | relocationFailed => exact answers (r.handOver _ fun _ h => h.failReloc)
  | commitUnitStop => exact answers (r.handOver _ fun _ h => h.stopCommit)
  | patrolHalt => exact answers (r.handOver _ fun _ h => h.patrol _)
  | loaderFailedNotice =>
    refine answers (r.handOver _ fun _ h => ?_)
    split
    · exact h.enterResult _
    · exact h
  | longCommandEnding code result spare => exact answers (r.handOver _ fun _ h => h.endLong _ _ _)
  | damagedFrame frame =>
    refine answers (r.whenUp ?_)
    split
    · exact r.link _
    · exact r
  | unknownCommand code seq params =>
    refine answers ?_
    split
    · exact r
    · exact r.receive _ r
  | getStatus seq params => exact answers (r.takeFrame _ _ _ r)
  | getResult seq params => exact answers (r.takeFrame _ _ _ r.reportResult)
  | getConfig seq params => exact answers (r.takeFrame _ _ _ r)
  | readLog seq params => exact answers (r.takeFrame _ _ _ r)
  | readRemap seq params => exact answers (r.takeFrame _ _ _ r)
  | readLost seq params => exact answers (r.takeFrame _ _ _ r)
  | readWatch seq params => exact answers (r.takeFrame _ _ _ r)
  | readQueue seq params => exact answers (r.takeFrame _ _ _ r)
  | ackAlert seq params => exact answers (r.takeFrame _ _ _ (r.log .acknowledge))
  | abort seq params => exact answers (r.takeFrame _ _ _ r.abortLong)
  | setWriteMode seq params =>
    exact answers (r.takeFrame _ _ _ (r.setConfig _ _ _ _ _ _ fun _ _ h =>
      (h.staging (.keep _ (by rfl) (by rfl) (by rfl)) ⟨by rfl, by rfl⟩).arbitrate))
  | setDrainThreshold seq params =>
    exact answers (r.takeFrame _ _ _ (r.setConfig _ _ _ _ _ _ fun _ _ h =>
      (h.staging (.keep _ (by rfl) (by rfl) (by rfl)) ⟨by rfl, by rfl⟩).arbitrate))
  | setEntryAgeTimer seq params =>
    exact answers (r.takeFrame _ _ _ (r.setConfig _ _ _ _ _ _ fun _ _ h =>
      h.staging (.keep _ (by rfl) (by rfl) (by rfl)) ⟨by rfl, by rfl⟩))
  | setCorrectionThreshold seq params =>
    exact answers (r.takeFrame _ _ _ (r.setConfig _ _ _ _ _ _ fun _ _ h => h.setThreshold _))
  | setPatrolEnable seq params =>
    exact answers (r.takeFrame _ _ _ (r.setConfig _ _ _ _ _ _ fun _ _ h => h.changePatrol _))
  | setPatrolInterval seq params =>
    exact answers (r.takeFrame _ _ _ (r.setConfig _ _ _ _ _ _ fun _ _ h => h.changePatrol _))
  | setLimit seq params => exact answers (r.takeFrame _ _ _ (r.setLimit _ _))
  | freezeLimit seq params => exact answers (r.takeFrame _ _ _ (r.tail (.freeze s)))
  | patrolStop seq params => exact answers (r.takeFrame _ _ _ (r.controlPatrol _ _ _))
  | patrolStart seq params => exact answers (r.takeFrame _ _ _ (r.controlPatrol _ _ _))
  | patrolRestart seq params => exact answers (r.takeFrame _ _ _ (r.controlPatrol _ _ _))
  | flush seq params => exact answers (r.takeFrame _ _ _ (r.startFlush _))
  | relocateBlock seq params => exact answers (r.takeFrame _ _ _ (r.startRelocate _ _))

end Changes

/-- A step with a command in the queue runs it on the state with the queue's rest. -/
theorem step_cons {s : State} {c : Instr} {rest : List Instr} (h : s.pending = c :: rest) :
    step s = exec c (s.withRest rest) := by
  unfold step
  rw [h]

/-- A step on an empty queue takes the oldest hand-over, or idles. -/
theorem step_nil {s : State} (h : s.pending = []) : step s = s.idle := by
  unfold step
  rw [h]

/-- A step runs the command at the queue's front on the state with the queue's rest; on an empty queue it runs the oldest
hand-over, or idles. -/
theorem step_cases (s : State) :
    (∃ c rest, s.pending = c :: rest ∧ step s = exec c (s.withRest rest)) ∨
    (∃ c rest, s.pending = [] ∧ s.posted = c :: rest ∧ step s = exec c s) ∨
    (s.pending = [] ∧ s.posted = [] ∧ step s = .next s) := by
  cases hp : s.pending with
  | cons c rest => exact .inl ⟨c, rest, rfl, step_cons hp⟩
  | nil =>
    rw [step_nil hp]
    unfold State.idle
    cases hq : s.posted with
    | cons c rest => exact .inr (.inl ⟨c, rest, rfl, rfl, rfl⟩)
    | nil => exact .inr (.inr ⟨rfl, rfl, rfl⟩)

end Sys2Proof.Machine
end

