-- ==== Sys2Proof/Tests/Slice0.lean ====
section
/-! SUPPORT. The smoke tests of WellFormed and Decode, small tests whose expected results come from the manual, and for each
statement with hypotheses a state that meets them. -/

namespace Sys2Proof.Tests

open Sys2Proof.Machine

set_option Elab.async false

/-! ## Ill-formed terms, one for each check of WellFormed -/

theorem test_ill_block : (Instr.relocRequest 260080 .uncorrectable).wellFormed = false := by decide +kernel
theorem test_ill_cause : (Instr.relocRequest 0 .management).wellFormed = false := by decide +kernel
theorem test_ill_bits_none : (Instr.watchReport 0 0).wellFormed = false := by decide +kernel
theorem test_ill_bits_many : (Instr.watchReport 0 5).wellFormed = false := by decide +kernel
theorem test_ill_lost_block : (Instr.lostBlockAddition 260080 .queue).wellFormed = false := by decide +kernel
theorem test_ill_event :
    (Instr.eventAppend { kind := .startup, block := some 260080, value := 0 }).wellFormed = false ∧
    (Instr.eventAppend { kind := .startup, spare := some 2048, value := 0 }).wellFormed = false ∧
    (Instr.eventAppend { kind := .startup, line := some 64, value := 0 }).wellFormed = false ∧
    (Instr.eventAppend { kind := .startup, value := 4294967296 }).wellFormed = false := by decide +kernel
theorem test_ill_ending :
    (Instr.longCommandEnding .flush .relocated 0).wellFormed = false ∧
    (Instr.longCommandEnding .flush .ok 1).wellFormed = false ∧
    (Instr.longCommandEnding .relocateBlock .relocated 2048).wellFormed = false := by decide +kernel
theorem test_ill_damaged : (Instr.damagedFrame []).wellFormed = false ∧ (Instr.damagedFrame [1, 7, 0, 0]).wellFormed = false := by
  decide +kernel
theorem test_ill_unknown : (Instr.unknownCommand 32 0 []).wellFormed = false := by decide +kernel
theorem test_ill_params : (Instr.flush 0 (List.replicate 33 0)).wellFormed = false := by decide +kernel
theorem test_ill_item_one : (Instr.setWriteMode 0 [2, 0, 1, 0]).wellFormed = false := by decide +kernel
theorem test_ill_item : (Instr.setPatrolEnable 0 [6, 0, 1, 0]).wellFormed = false ∧
    (Instr.setPatrolEnable 0 [5, 0, 1]).wellFormed = false := by decide +kernel
theorem test_ill_action : (Instr.patrolStop 0 [1]).wellFormed = false ∧ (Instr.patrolStart 0 [2]).wellFormed = false := by decide +kernel

/-! ## Frames, with check bytes worked out from section 10.7 outside the model -/

theorem test_frame_status : decodeFrame [1, 7, 0, 0] = some (.getStatus 7 []) := by decide +kernel
theorem test_frame_log : decodeFrame [4, 10, 4, 2, 1, 0, 0, 160] = some (.readLog 10 [2, 1, 0, 0]) := by decide +kernel
theorem test_frame_ack : decodeFrame [9, 12, 0, 198] = some (.ackAlert 12 []) := by decide +kernel
theorem test_frame_config : decodeFrame [16, 14, 4, 2, 1, 32, 0, 12] = some (.setDrainThreshold 14 [2, 1, 32, 0]) := by decide +kernel
theorem test_frame_config_unknown_item : decodeFrame [16, 15, 4, 7, 0, 0, 0, 174] = some (.setWriteMode 15 [7, 0, 0, 0]) := by decide +kernel
theorem test_frame_limit : decodeFrame [17, 16, 4, 64, 13, 3, 0, 40] = some (.setLimit 16 [64, 13, 3, 0]) := by decide +kernel
theorem test_frame_patrol : decodeFrame [19, 17, 1, 1, 134] = some (.patrolStart 17 [1]) := by decide +kernel
theorem test_frame_flush : decodeFrame [32, 19, 0, 43] = some (.flush 19 []) := by decide +kernel
theorem test_frame_relocate : decodeFrame [33, 20, 3, 232, 3, 0, 53] = some (.relocateBlock 20 [232, 3, 0]) := by decide +kernel
theorem test_frame_unknown : decodeFrame [11, 21, 0, 250] = some (.unknownCommand 11 21 []) := by decide +kernel
theorem test_frame_damaged : decodeFrame [32, 19, 0, 44] = some (.damagedFrame [32, 19, 0, 44]) := by decide +kernel
theorem test_no_bits : decodeTableWord 8 1 = none := rfl

/-! ## Small states -/

/-- A part that has started up without defects, with nothing waiting. -/
def running : State := { State.reset with
  pins := { State.reset.pins with porInput := false }
  xlat := { resetXlat with nb := 260080, el := 260080, elp := 260080 }
  host := { resetHost with ready := .opened }
  commit := { resetCommit with holder := some .a, newestSeq := 1, lastSeq := 1 }
  loader := { resetLoader with state := .ready }
  patrol := { resetPatrol with timer := some 100 }
  health := { resetHealth with startup := some false } }

/-- The part with another staging buffer, host port, translation unit, relocation, commit unit, loader, patrol or health state. -/
def withStaging (st : Staging) : State := { running with staging := st }
def withHost (h : HostPort) : State := { running with host := h }
def withXlat (x : Xlat) : State := { running with xlat := x }
def withReloc (r : Reloc) : State := { running with reloc := r }
def withLong (r : LongRecord) : State := { running with link := { resetLink with long := some r } }

/-- The part in health FAILED. -/
def failed : State := { running with health := { running.health with state := .failed } }

/-- The part in LOADING_FIELD. -/
def starting : State := { running with
  host := resetHost, loader := { resetLoader with state := .loadingField, task := .fieldA, readOut := true }, health := resetHealth }

/-- A line of 64 equal bytes. -/
def line (b : Byte) : Line := Vector.replicate 64 b

/-- An OPEN entry of a line in epoch 0 with one byte. -/
def entry (addr order : Nat) : Entry :=
  { line := addr, data := line 7, mask := 1, epoch := 0, state := .opened, hold := .none, order := order, ageTimer := 20,
    agePassed := false, tags := [], merged := none }

/-- The buffer that holds these entries, numbered below 100. -/
def holding (es : List Entry) : Staging := { resetStaging with entries := es, nextOrder := 100 }

/-- `n` entries of distinct lines. -/
def many (n : Nat) : List Entry := (List.range n).map fun i => entry i i

/-- The record of an operation. -/
def opRecord (req : Requester) (kind : OpKind) (pblock : Nat) : OpRecord :=
  { id := 5, kind := kind, requester := req, pblock := pblock, line := 3, block := some 0, spare := none, deadline := 2000 }

/-- The part with an operation in progress. -/
def busy (req : Requester) (kind : OpKind) (payload : Option (LineContent × Bool)) : State := { running with
  port := { record := some (opRecord req kind 16), nextId := 6 }
  array := { cells := [], op := some { id := 5, kind := kind, pblock := 16, line := 3, payload := payload } } }

/-- A state with an answer delivered to a requester. -/
def delivering (s : State) (req : Requester) (kind : OpKind) (answer : Delivered) : State :=
  { s with deliveries := [{ record := opRecord req kind 16, answer := answer }] }

/-- The state after a command. -/
def after (c : Instr) (s : State) : State :=
  match exec c s with
  | .next t => t
  | .fault _ => s
  | .refused _ => s

/-! ## Witnesses: states and operands that meet the hypotheses of a statement, clause by clause -/

theorem witness_StepRunsTheFrontCommand :
    { running with pending := [.responseTaken, .hostReadAnswer] }.pending = Instr.responseTaken :: [.hostReadAnswer] := rfl

theorem witness_EveryCommandAnswersAndAnEmptyQueueIdles :
    (running.pending = [] ∧ running.posted = []) ∧
    ({ running with posted := [.engineTakeHead] }.pending = [] ∧ { running with posted := [.engineTakeHead] }.posted ≠ []) := by
  decide +kernel

/-- A drain program that the reset cuts short. -/
theorem witness_PowerOnResetLosesEveryVolatileState :
    (busy .drain .program (some (.bytes zeroLine, false))).port.record.isSome = true ∧
    ∃ op, (busy .drain .program (some (.bytes zeroLine, false))).array.op = some op ∧ op.kind = .program := by
  exact ⟨rfl, _, rfl, rfl⟩

/-- The input released with the supply good; the supply back with the input released; both causes standing. -/
theorem witness_ReleaseOfTheResetBeginsStartUp :
    (State.reset.port.record = none ∧ State.reset.loader = resetLoader ∧ State.reset.log = resetLog ∧
      State.reset.pins.porInput = true ∧ State.reset.pins.supplyLow = false) ∧
    (let s := { State.reset with pins := { State.reset.pins with porInput := false, supplyLow := true } };
      s.port.record = none ∧ s.loader = resetLoader ∧ s.log = resetLog ∧ s.pins.porInput = false ∧ s.pins.supplyLow = true) ∧
    (let s := { State.reset with pins := { State.reset.pins with supplyLow := true } };
      s.pins.porInput = true ∧ s.pins.supplyLow = true) := by decide +kernel

theorem witness_HostLinkResetEmptiesAndReopensThePort :
    State.reset.host.ready = .starting ∧ running.host.ready ≠ .starting ∧ running.host.ready ≠ .inReset ∧
    (withHost { running.host with ready := .inReset }).host.ready = .inReset ∧
    (withHost { running.host with ready := .inReset }).Quiet := by
  unfold State.Quiet State.Rests
  decide +kernel

/-- Byte 0 of line 0 in an older SEALED entry and a newer OPEN one that does not hold it. -/
theorem witness_SnapshotHoldsTheNewestBytes :
    let st := holding [{ entry 0 1 with state := .sealed }, { entry 0 2 with mask := 2 }, entry 9 3];
    (st.entries.filter fun e => decide (e.line = 0)) =
      [] ++ { entry 0 1 with state := .sealed } :: [{ entry 0 2 with mask := 2 }] ∧
    (entry 0 1).mask.getLsbD 0 = true ∧ ∀ f ∈ [{ entry 0 2 with mask := 2 }], f.mask.getLsbD 0 = false := by
  decide +kernel

/-- A full entry of the last line of the part, and nothing staged for it. -/
theorem witness_ReadIsAnsweredOrQueued :
    let full := withStaging (holding [{ entry 16645119 1 with mask := fullMask }]);
    (full.Quiet ∧ full.TakesRequests ∧ tableGet full.host.readTags 31 = none ∧ full.Admits 16645119 ∧
      (snapshot full.staging 16645119).2 = fullMask) ∧
    (running.Quiet ∧ running.TakesRequests ∧ tableGet running.host.readTags 31 = none ∧ running.Admits 16645119 ∧
      (snapshot running.staging 16645119).2 ≠ fullMask) := by
  unfold State.Quiet State.Rests State.TakesRequests State.Admits
  decide +kernel

/-- 63 entries staged, in write-through mode and in write-back mode: the line has an OPEN entry; it has only a SEALED one. A
drain operation in progress keeps the arbiter at rest. -/
def nearlyFull (mode : WriteMode) (state : EntryState) : State :=
  { busy .drain .read none with
    staging := { holding ({ entry 100 0 with state := state } :: (many 62).map fun e => { e with order := e.order + 1 }) with
      mode := mode } }

theorem witness_WriteMergesOrAllocates :
    ∀ mode ∈ [WriteMode.back, .through],
      let s := nearlyFull mode .opened;
      let t := nearlyFull mode .sealed;
      (s.Quiet ∧ s.TakesRequests ∧ occupancy s.staging < 64 ∧ (1 : Mask) ≠ 0 ∧ tableGet s.host.writeTags 31 = none ∧
        s.Admits 100 ∧ ∃ e ∈ s.staging.entries, e.line = 100 ∧ e.state = .opened) ∧
      (t.Quiet ∧ t.TakesRequests ∧ occupancy t.staging < 64 ∧ tableGet t.host.writeTags 31 = none ∧
        t.Admits 100 ∧ ∀ e ∈ t.staging.entries, e.line = 100 → e.state ≠ .opened) := by
  unfold State.Quiet State.Rests State.TakesRequests State.Admits
  decide +kernel

/-- Three barriers open, each over the entry of epoch 0; and nothing staged. -/
theorem witness_BarrierClosesTheEpoch :
    (let s := withStaging { holding [entry 0 0] with
        epoch := 4
        hostSlots := [0, 1, 2].map fun i => { tag := i, epoch := i + 1, failFlag := false } };
      let s := { s with port := (busy .drain .read none).port };
      s.Quiet ∧ s.TakesRequests ∧ s.staging.hostSlots.length < 4 ∧ tableGet s.host.barrierTags 7 = none ∧
      s.health.state ≠ .failed ∧ (∃ e ∈ s.staging.entries, e.epoch ≤ s.staging.epoch) ∧
      (∀ r ∈ s.staging.hostSlots, ∃ e ∈ s.staging.entries, e.epoch ≤ r.epoch) ∧ s.staging.flushSlot = none) ∧
    (running.Quiet ∧ running.TakesRequests ∧ running.staging.hostSlots.length < 4 ∧
      tableGet running.host.barrierTags 7 = none ∧ running.health.state ≠ .failed ∧ running.staging.entries = [] ∧
      running.staging.hostSlots = [] ∧ running.staging.flushSlot = none ∧ running.host.barrierTags = []) := by
  unfold State.Quiet State.Rests State.TakesRequests
  decide +kernel

/-- Outstanding tags; health FAILED; the first address past the part and the first hidden block; a lost block. -/
theorem witness_RefusedRequestsAreAnsweredAtOnce :
    (let s := withHost { running.host with readTags := [(31, 0)], writeTags := [(31, 0)], barrierTags := [(7, 0)] };
      s.Quiet ∧ s.TakesRequests ∧ (tableGet s.host.readTags 31).isSome = true ∧ occupancy s.staging < 64 ∧
      (tableGet s.host.writeTags 31).isSome = true ∧ s.staging.hostSlots.length < 4 ∧
      (tableGet s.host.barrierTags 7).isSome = true) ∧
    (failed.Quiet ∧ failed.TakesRequests ∧ tableGet failed.host.readTags 0 = none ∧ failed.health.state = .failed ∧
      tableGet failed.host.writeTags 0 = none ∧ tableGet failed.host.barrierTags 0 = none ∧ occupancy failed.staging < 64 ∧
      failed.staging.hostSlots.length < 4) ∧
    (let s := withXlat { running.xlat with el := 3, lost := [2] };
      s.Quiet ∧ s.TakesRequests ∧ s.health.state ≠ .failed ∧ s.xlat.nb * 64 ≤ 16645120 ∧
      (192 < s.xlat.nb * 64 ∧ s.xlat.el ≤ 192 / 64) ∧
      (191 < s.xlat.nb * 64 ∧ 191 / 64 < s.xlat.el ∧ 191 / 64 ∈ s.xlat.lost)) := by
  unfold State.Quiet State.Rests State.TakesRequests
  decide +kernel

/-- STARTING, RECOVERING, a reserve of 80; a full buffer, four barriers; IN_RESET. -/
theorem witness_RequestsWaitInTheChannel :
    (State.reset.Rests ∧ State.reset.host.ready = .starting) ∧
    (let s := withHost { running.host with ready := .recovering, abandoned := some 0 };
      s.Rests ∧ s.host.ready = .recovering) ∧
    (let s := withHost { running.host with responses := List.replicate 80 (.readResult 0 .range) };
      s.Rests ∧ s.host.ready = .opened ∧ 80 ≤ s.host.reserve) ∧
    (let s := { busy .drain .read none with staging := holding (many 64) };
      s.Rests ∧ s.host.channel = [] ∧ s.host.ready = .opened ∧ 64 ≤ occupancy s.staging) ∧
    (let s := { busy .drain .read none with
        staging := { holding (many 1) with hostSlots := List.replicate 4 { tag := 0, epoch := 0, failFlag := false } } };
      s.Rests ∧ s.host.channel = [] ∧ s.host.ready = .opened ∧ 4 ≤ s.staging.hostSlots.length) ∧
    (let s := withHost { running.host with ready := .inReset };
      s.Rests ∧ s.host.channel = [] ∧ s.host.ready = .inReset) := by
  unfold State.Rests
  decide +kernel

/-- No response; one response; a response whose removal lets a held READ be taken at a reserve of 80. -/
theorem witness_ResponseTakenLeavesTheQueue :
    (running.Rests ∧ running.host.responses = []) ∧
    (let s := withHost { running.host with responses := [.readResult 0 .range] };
      s.Rests ∧ s.host.responses = .readResult 0 .range :: [] ∧ s.host.channel = []) ∧
    (let s := withHost { running.host with responses := List.replicate 80 (.readResult 0 .range), channel := [.read 1 0] };
      s.Rests ∧ s.host.responses = .readResult 0 .range :: List.replicate 79 (.readResult 0 .range) ∧
      s.host.channel = [.read 1 0] ∧ s.host.ready ≠ .inReset ∧
      { s with host := { s.host with responses := List.replicate 79 (.readResult 0 .range) } }.canTake (.read 1 0) = true) := by
  unfold State.Rests
  decide +kernel

/-- A line the array vouches for, and one whose program failed. -/
theorem witness_ReadAnswerEndsTheOperation :
    let s := busy .hostRead .read none;
    s.port.record = some (opRecord .hostRead .read 16) ∧ (opRecord .hostRead .read 16).kind = .read ∧
    (∃ o, s.array.op = some o ∧ o.kind = .read) ∧
    (cellAt s.array.cells (16 * 64 + 3) = .vouched (.bytes erasedLine) false) ∧
    (let t := { s with array := { s.array with cells := [(1027, .unvouched)] } };
      cellAt t.array.cells (16 * 64 + 3) = .unvouched) := by
  exact ⟨rfl, rfl, ⟨_, rfl, rfl⟩, by decide +kernel, by decide +kernel⟩

theorem witness_ProgramAnswerEndsTheOperation :
    let s := busy .drain .program (some (.bytes zeroLine, false));
    s.port.record = some (opRecord .drain .program 16) ∧ (opRecord .drain .program 16).kind = .program ∧
    ∃ o, s.array.op = some o ∧ o.kind = .program ∧ o.payload = some (.bytes zeroLine, false) := by
  exact ⟨rfl, rfl, _, rfl, rfl, rfl⟩

/-- An IDLE port; another identifier; a read and a program whose deadline passes, or which an answer of either kind meets. -/
theorem witness_TimeoutsEndTheOperationAndOtherAnswersAreDiscarded :
    running.port.record = none ∧
    (∃ r, (busy .drain .read none).port.record = some r ∧ r.id ≠ 6) ∧
    (∃ r o, (busy .patrol .read none).port.record = some r ∧ (busy .patrol .read none).array.op = some o ∧ o.kind = r.kind ∧
      r.kind = .read) ∧
    (∃ r o, (busy .drain .program none).port.record = some r ∧ (busy .drain .program none).array.op = some o ∧
      o.kind = r.kind ∧ r.kind = .program) := by
  exact ⟨rfl, ⟨_, rfl, by decide⟩, ⟨_, _, rfl, rfl, rfl, rfl⟩, ⟨_, _, rfl, rfl, rfl, rfl⟩⟩

/-- Two classes offer at an IDLE port; the watermark is not reached, and reached. -/
def contended (n : Nat) : State := { running with
  host := { running.host with
    queue := [{ tag := 0, addr := 64, snapshot := zeroLine, coverage := 0, issued := false }], readTags := [(0, 64)] }
  staging := holding (many n) }

theorem witness_ArbiterTakesTheHighestClass :
    (busy .drain .read none).busy = true ∧ (∀ q ∈ classOrder 0, running.offers q = false) ∧
    ((contended 55).busy = false ∧ (contended 55).choice = some .hostRead ∧
      (∀ r ∈ (contended 55).host.queue, r.block ∉ (contended 55).xlat.lost)) ∧
    ((contended 56).busy = false ∧ (contended 56).choice = some .drain) ∧ failed.health.state = .failed := by decide +kernel

/-- The record of a relocation of block 5 from its slip location to spare 2. -/
def inFlight (cursor attempt : Nat) (buffer : Option (Line × Bool)) : RelocRecord :=
  { block := 5, cause := .uncorrectable, byManagement := false, source := some 21, spare := some 2, attempt := attempt,
    cursor := cursor, buffer := buffer, poisoned := 0, srcFailed := false, purpose := none }

/-- The relocation in COPY, at a line. -/
def copying (cursor attempt : Nat) (buffer : Option (Line × Bool)) : State := { running with
  xlat := { running.xlat with
    remap := [(5, { spare := 2, state := .pending none false })], spares := [(0, .inUse), (1, .retired), (2, .pending)] }
  reloc := { resetReloc with
    engine := .copy
    record := some (inFlight cursor attempt buffer) } }

/-- The image of an empty part. -/
def image : FieldImage := emptyImage 260080

/-- A commit into a copy at a write step. -/
def committing (target : CopyId) (step : Nat) (switch : Option Nat) : State := { running with
  commit := { running.commit with writing := some { target := target, step := step, image := image, switch := switch } } }

/-- A patrol offer, not issued. -/
def patrolling : State :=
  { running with patrol := { running.patrol with outstanding := some { block := 0, line := 0, issued := false } } }

theorem witness_IssueOfEachClass :
    ((contended 0).busy = false ∧ (contended 0).choice = some .hostRead ∧
      (∃ r, (contended 0).host.queue = r :: [] ∧ r.addr / 64 ∉ (contended 0).xlat.lost)) ∧
    (let s := { contended 0 with xlat := { running.xlat with lost := [1] } };
      s.busy = false ∧ s.choice = some .hostRead ∧ ∃ r, s.host.queue = r :: [] ∧ r.addr / 64 ∈ s.xlat.lost) ∧
    ((committing .b 447 none).choice = some .commit ∧ (committing .b 447 none).commit.writing.isSome = true) ∧
    ((copying 63 1 none).choice = some .relocation ∧
      ∃ x, (copying 63 1 none).reloc.record = some x ∧ x.source = some 21 ∧ x.spare = some 2 ∧ x.buffer = none) ∧
    ((copying 0 1 (some (zeroLine, true))).choice = some .relocation ∧
      ∃ x, (copying 0 1 (some (zeroLine, true))).reloc.record = some x ∧ x.buffer = some (zeroLine, true)) ∧
    (let s := withStaging { holding [{ entry 5 0 with mask := fullMask }] with mode := .through };
      s.choice = some .drain ∧ drainOffer s.staging = some ({ entry 5 0 with mask := fullMask }, .program)) ∧
    (patrolling.choice = some .patrol ∧ patrolling.patrol.outstanding.isSome = true) ∧
    (∀ task ∈ [LoaderTask.m0, .m1, .fieldA, .fieldB], ∀ line ∈ [0, 63, 64, 447],
      let s := { starting with loader := { starting.loader with task := task, line := line, readOut := false } };
      s.busy = false ∧ s.choice = some .loader ∧ s.loader.task = task) := by
  exact ⟨⟨by decide +kernel, by decide +kernel, _, rfl, by decide +kernel⟩,
    ⟨by decide +kernel, by decide +kernel, _, rfl, by decide +kernel⟩, by decide +kernel,
    ⟨by decide +kernel, _, rfl, rfl, rfl, rfl⟩, ⟨by decide +kernel, _, rfl, rfl⟩, by decide +kernel, by decide +kernel,
    by decide +kernel⟩

/-- At the threshold of 16 entries the second entry is issuable, its line's first entry being fenced off; an entry is ISSUED behind one
that is not; a read is in progress. -/
theorem witness_DrainChoosesTheOldestIssuableEntry :
    (let st := { holding (many 16) with fences := [(0, 1)] };
      st.drainOp = none ∧ (∀ f ∈ st.entries, f.state ≠ .issued) ∧ drainOffer st = some (entry 1 1, .read)) ∧
    (let e := { entry 6 1 with state := .issued, merged := some (zeroLine, false) };
      let st := holding ([entry 5 0] ++ e :: []);
      st.drainOp = none ∧ st.entries = [entry 5 0] ++ e :: [] ∧ e.state = .issued ∧ (∀ f ∈ [entry 5 0], f.state ≠ .issued)) ∧
    { holding (many 16) with drainOp := some { order := 0, kind := .read } }.drainOp ≠ none := by decide +kernel

/-- The defects of Table 2-2, and a part whose last data block is a defect. -/
theorem witness_SlipLocationSkipsTheDefects :
    (let x := { resetXlat with defects := [16, 20, 21, 100], nb := 260076 };
      rising x.defects = true ∧ (∀ d ∈ x.defects, 16 ≤ d ∧ d ≤ 260095) ∧ x.nb = 260080 - x.defects.length ∧
      260075 < x.nb ∧ 260095 ∉ x.defects ∧ 260075 = x.nb - 1) ∧
    (let x := { resetXlat with defects := [260095], nb := 260079 };
      rising x.defects = true ∧ (∀ d ∈ x.defects, 16 ≤ d ∧ d ≤ 260095) ∧ x.nb = 260080 - x.defects.length ∧ 260078 < x.nb) := by
  decide +kernel

/-- Block 0 in spare 3, block 1 on its way from spare 4 to spare 5, block 2 on its way from its slip location. -/
def relocated : Xlat := { resetXlat with
  defects := [16], nb := 260079
  remap := [(0, { spare := 3, state := .inUse }), (1, { spare := 5, state := .pending (some 4) true }),
    (2, { spare := 6, state := .pending none false })] }

theorem witness_TranslationIsInjective :
    let x : Xlat := relocated;
    let home (block : Nat) : Option Nat := match tableGet x.remap block with
      | some { spare := i, state := .inUse } => some i
      | some { spare := _, state := .pending prior _ } => prior
      | none => none;
    rising x.defects = true ∧ (∀ d ∈ x.defects, 16 ≤ d ∧ d ≤ 260095) ∧ x.nb = 260080 - x.defects.length ∧
    home 0 = some 3 ∧ home 1 = some 4 ∧ home 2 = none ∧
    ∀ a b i, home a = some i → home b = some i → a = b := by
  refine ⟨by decide, by decide, by decide, rfl, rfl, rfl, ?_⟩
  intro a b i ha hb
  simp only [relocated, tableGet] at ha hb
  split_ifs at ha hb <;> simp_all <;> omega

/-- An ISSUED read, with health NORMAL and FAILED; an abandoned read in RECOVERING. -/
theorem witness_HostReadIsAnswered :
    (let q : ReadRecord := { tag := 0, addr := 0, snapshot := zeroLine, coverage := 1, issued := true };
      let s := delivering (withHost { running.host with queue := [q], readTags := [(0, 0)] }) .hostRead .read (.uncorrectable false);
      let t := { s with health := failed.health };
      ((s.deliveredFor .hostReadAnswer).isSome = true ∧ s.host.channel = [] ∧ s.host.abandoned = none ∧ s.host.queue = q :: [] ∧
        q.issued = true ∧ s.health.state ≠ .failed) ∧
      ((t.deliveredFor .hostReadAnswer).isSome = true ∧ t.host.channel = [] ∧ t.host.queue = q :: [] ∧ t.health.state = .failed)) ∧
    (let s := delivering (withHost { running.host with ready := .recovering, abandoned := some 0 }) .hostRead .read (.uncorrectable false);
      (s.deliveredFor .hostReadAnswer).isSome = true ∧ s.host.channel = [] ∧ s.host.abandoned = some 0) := by decide +kernel

/-- The drain's operation on an entry. -/
def draining (kind : OpKind) (answer : Delivered) (es : List Entry) : State :=
  delivering (withStaging { holding es with drainOp := some { order := 0, kind := kind } }) .drain kind answer

/-- The entry ISSUED, marked migrating meanwhile, discarded meanwhile; health FAILED meanwhile. -/
theorem witness_ReadModifyWriteBuildsTheMergedLine :
    let d := Delivered.uncorrectable false;
    let s := draining .read d [{ entry 0 0 with state := .issued }];
    let t := draining .read d [{ entry 0 0 with hold := .migrating }];
    let u := draining .read d [];
    (∀ v ∈ [s, t, u], (v.deliveredFor .rmwReadAnswer).isSome = true ∧ v.staging.drainOp = some { order := 0, kind := .read }) ∧
    s.health.state ≠ .failed ∧ (∃ e, s.staging.entries.find? (fun f => decide (f.order = 0)) = some e ∧ e.state = .issued) ∧
    (∃ e, t.staging.entries.find? (fun f => decide (f.order = 0)) = some e ∧ e.state ≠ .issued) ∧
    u.staging.entries.find? (fun f => decide (f.order = 0)) = none ∧
    (let v := { s with health := failed.health };
      v.health.state = .failed ∧ d.isUncorrectable = true ∧ v.inReset = false ∧ v.host.channel = []) := by
  exact ⟨by decide +kernel, by decide +kernel, ⟨_, rfl, rfl⟩, ⟨_, rfl, by decide⟩, rfl, by decide +kernel⟩

theorem witness_DrainProgramFreesOrHoldsTheEntry :
    (∀ r ∈ [ProgramResult.done, .fail], ∀ es ∈ [[{ entry 0 0 with state := .issued }], []],
      let s := draining .program (.program r) es;
      (s.deliveredFor .drainProgramAnswer).isSome = true ∧ (∀ d ∈ s.deliveries, d.answer = .program r) ∧
      s.staging.drainOp = some { order := 0, kind := .program } ∧ s.host.channel = [] ∧ s.health.state ≠ .failed ∧
      s.staging.entries.find? (fun f => decide (f.order = 0)) = es.head?) ∧
    (let s := { draining .program (.program .fail) [{ entry 0 0 with state := .issued }] with health := failed.health };
      (s.deliveredFor .drainProgramAnswer).isSome = true ∧ s.health.state = .failed ∧ s.inReset = false ∧ s.host.channel = []) := by decide +kernel

/-- A copy read delivered in each form of Table 6-3. -/
theorem witness_CopyReadFillsTheLineBuffer :
    (∀ a ∈ [Delivered.uncorrectable false, .clean (.bytes zeroLine) true, .corrected 4 (.bytes zeroLine) false],
      let s := delivering (copying 63 3 none) .relocation .read a;
      (s.deliveredFor .copyReadAnswer).isSome = true ∧ s.reloc.failed = false ∧ s.reloc.engine = .copy ∧
      s.reloc.record.isSome = true ∧ s.health.state ≠ .failed) ∧
    (Delivered.uncorrectable false).isUncorrectable = true ∧
    ((Delivered.clean (.bytes zeroLine) true).isUncorrectable = false ∧ (Delivered.clean (.bytes zeroLine) true).poison = true) ∧
    ((Delivered.corrected 4 (.bytes zeroLine) false).isUncorrectable = false ∧
      (Delivered.corrected 4 (.bytes zeroLine) false).poison = false) ∧
    (let s := { delivering (copying 63 3 none) .relocation .read (.uncorrectable false) with health := failed.health };
      (s.deliveredFor .copyReadAnswer).isSome = true ∧ s.health.state = .failed) := by decide +kernel

/-- DONE at line 62 and at line 63; FAIL at attempt 2 with a spare, at attempt 2 without one, and at attempt 3. -/
theorem witness_CopyProgramAdvancesOrEndsTheAttempt :
    (∀ r ∈ [ProgramResult.done, .fail], ∀ s0 ∈ [copying 62 2 none, copying 63 3 none],
      let s := delivering s0 .relocation .program (.program r);
      (s.deliveredFor .copyProgramAnswer).isSome = true ∧ s.reloc.failed = false ∧ s.reloc.engine = .copy ∧
      (∃ x, s.reloc.record = some x ∧ x.spare = some 2) ∧ s.health.state ≠ .failed ∧ s.host.channel = []) ∧
    (∀ s ∈ [copying 62 2 none, copying 63 3 none],
      tableGet s.xlat.remap 5 = some { spare := 2, state := .pending none false }) ∧
    (let s := copying 62 2 none;
      spareToAllocate { s.xlat with spares := tableSet s.xlat.spares 2 .retired } = some 3) ∧
    (let all := (List.range 2048).map fun i => (i, if i = 2 then SpareState.pending else .inUse);
      spareToAllocate { (copying 62 2 none).xlat with spares := tableSet all 2 .retired } = none) ∧
    (let s := { delivering (copying 63 3 none) .relocation .program (.program .fail) with health := failed.health };
      (s.deliveredFor .copyProgramAnswer).isSome = true ∧ s.health.state = .failed) := by
  refine ⟨?_, by decide +kernel, by decide +kernel, by decide +kernel, by decide +kernel⟩
  intro r hr s0 hs
  simp only [List.mem_cons, List.not_mem_nil, or_false] at hr hs
  rcases hr with rfl | rfl <;> rcases hs with rfl | rfl <;>
    exact ⟨by decide +kernel, rfl, rfl, ⟨_, rfl, rfl⟩, by decide +kernel, rfl⟩

theorem witness_AllocationTakesTheLowestFreeSpare :
    let x := { resetXlat with spares := (List.range 2047).map fun i => (i, SpareState.retired) };
    tableSorted x.spares = true ∧ (∀ e ∈ x.spares, e.2 ≠ .free) ∧ spareToAllocate x = some 2047 := by decide +kernel

/-- No SRC_FAILED hold; one on an entry of the block. -/
theorem witness_AbandonmentKeepsOrGivesUpTheBlock :
    (let s := withStaging (holding [{ entry 320 0 with hold := .migrating }]);
      ¬ ∃ e ∈ s.staging.entries, e.line / 64 = 5 ∧ e.hold = .srcFailed) ∧
    (let s := withStaging (holding [{ entry 383 0 with hold := .srcFailed }]);
      ∃ e ∈ s.staging.entries, e.line / 64 = 5 ∧ e.hold = .srcFailed) := by decide +kernel

theorem witness_CommitRequestCapturesOrFollowsUp :
    running.inReset = false ∧ running.commit.stopped = false ∧ running.commit.writing = none ∧
    (committing .b 0 none).commit.stopped = false ∧ (committing .b 0 none).commit.writing ≠ none ∧
    { running with commit := { running.commit with stopped := true } }.commit.stopped = true := by decide +kernel

/-- Each of the four cases of the target, and an IDLE unit. -/
theorem witness_TargetCopyOfACapture :
    (running.commit.holder = some .a ∧ copyState running.commit (otherCopy .a) = .ok) ∧
    (let c := { running.commit with copyB := .failed }; c.holder = some .a ∧ copyState c (otherCopy .a) = .failed) ∧
    (resetCommit.holder = none ∧ resetCommit.copyA = .ok) ∧
    (let c := { resetCommit with copyA := .failed }; c.holder = none ∧ c.copyA = .failed) ∧
    (running.inReset = false ∧ running.commit.stopped = false ∧ running.commit.writing = none) := by decide +kernel

theorem witness_RenderingOfThePendingEntry :
    let x : Xlat := { relocated with remap := relocated.remap.take 2 };
    x.remap = [(0, { spare := 3, state := .inUse })] ++ (1, { spare := 5, state := .pending (some 4) true }) :: [] ∧
    ∀ e ∈ [(0, ({ spare := 3, state := .inUse } : RemapEntry))] ++ [], e.2.state = .inUse := by decide +kernel

/-- DONE before the last step, DONE at it with nothing, the switch or the link waiting, FAIL with the other copy OK and FAILED. -/
def committed (r : ProgramResult) (c : CommitUnit) (x : Xlat) (rl : Reloc) (long : Option LongRecord) : State :=
  delivering { running with commit := c, xlat := x, reloc := rl, link := { resetLink with long := long } } .commit .program (.program r)

/-- A persistent SET_LIMIT pending. -/
def limitPending : LongRecord := { code := .setLimit, seq := 1, ended := none, spare := 0 }

/-- The engine of block 5 in COMMIT_WAIT with a purpose. -/
def waiting (purpose : CommitPurpose) : Reloc := { (copying 63 1 none).reloc with
  engine := .commitWait, record := some { inFlight 63 1 none with purpose := some purpose } }

/-- Block 5 on its way to spare 2, from a prior spare or from its slip location. -/
def switching (prior : Option Nat) : Xlat := { running.xlat with
  remap := [(5, { spare := 2, state := .pending prior true })], spares := [(1, .inUse), (2, .pending)] }

/-- Stopped, and FAILED; then, with DONE and FAIL: step 446; step 447 with no waiter and the follow-up flag clear and set; with the switch
from the slip location and from a prior spare; with the link waiting; with the other copy FAILED, nothing PENDING, a command that waits, and
one whose ending is posted. -/
theorem witness_CommitProgramStepsCompletesOrMoves :
    (let s := committed .done { (committing .b 447 none).commit with stopped := true } running.xlat resetReloc none;
      (s.deliveredFor .commitProgramAnswer).isSome = true ∧ s.commit.stopped = true ∧
      { s with health := failed.health }.health.state = .failed) ∧
    (∀ r ∈ [ProgramResult.done, .fail], ∀ s ∈ [committed r (committing .b 446 none).commit running.xlat resetReloc none,
        committed r (committing .b 447 none).commit running.xlat resetReloc none,
        committed r { (committing .b 447 none).commit with followUp := true } running.xlat resetReloc none,
        committed r { (committing .b 447 (some 5)).commit with waiters := [{ party := .engine, current := true }] }
          (switching none) (waiting .switch) none,
        committed r { (committing .b 447 (some 5)).commit with waiters := [{ party := .engine, current := true }] }
          (switching (some 1)) (waiting .switch) none,
        committed r { (committing .b 447 none).commit with waiters := [{ party := .link, current := true }] } running.xlat resetReloc
          (some limitPending),
        committed r { (committing .b 0 none).commit with copyA := .failed } running.xlat resetReloc none,
        committed r { (committing .b 0 none).commit with copyA := .failed } running.xlat resetReloc (some limitPending),
        { committed r { (committing .b 0 none).commit with copyA := .failed } running.xlat resetReloc (some limitPending) with
          posted := [.longCommandEnding .setLimit .ok 0] }],
      (s.deliveredFor .commitProgramAnswer).isSome = true ∧ (∀ d ∈ s.deliveries, d.answer = .program r) ∧
      s.commit.stopped = false ∧ s.commit.writing.isSome = true ∧ s.host.channel = [] ∧ s.health.state ≠ .failed) ∧
    (∀ prior, tableGet (switching prior).remap 5 = some { spare := 2, state := .pending prior true }) ∧
    (committed .done running.commit running.xlat resetReloc (some limitPending)).pendingLong = some .setLimit ∧
    copyState { resetCommit with copyA := .failed } (otherCopy .b) = .failed ∧ copyState resetCommit (otherCopy .b) = .ok := by
  exact ⟨by decide +kernel, by decide +kernel, fun _ => rfl, rfl, rfl, rfl⟩

/-- The waiters of Table 7-3: the loader of a first start and one that is READY; a SET_CONFIG; the engine with each purpose, by a
management request and not, with entries waiting and none. -/
theorem witness_CommitProgramStepsCompletesOrMoves_waiters :
    starting.loader.state = .loadingField ∧ running.loader.state ≠ .loadingField ∧
    (withLong { limitPending with code := .setConfig }).pendingLong = some .setConfig ∧
    (running.pendingLong ≠ some .setLimit ∧ running.pendingLong ≠ some .setConfig) ∧
    (∀ p ∈ [CommitPurpose.switch, .lost], let s := withReloc (waiting p);
      s.reloc.failed = false ∧ s.health.state ≠ .failed ∧ s.reloc.engine = .commitWait ∧
      s.reloc.record.map (fun x => (x.block, x.purpose, x.byManagement)) = some (5, some p, false)) ∧
    ((waiting .lost).urgent = [] ∧ (waiting .lost).normal = []) := by decide +kernel

/-- A loader that reads a line of a copy. -/
def loading (task : LoaderTask) (n : Nat) (m : Option MfgRecord) (a : Option CopyClass) (d : Delivered) : State :=
  delivering { starting with
    loader := { resetLoader with
      state := if task = .m0 ∨ task = .m1 then .loadingMfg else .loadingField
      task := task, line := n, mfg := m, classA := a, readOut := true } } .loader .read d

/-- A record of one defect. -/
def mfgOne : MfgRecord := { formatOk := true, checkOk := true, count := 1, defects := [260095] }

/-- Valid images of sequences 1 and 2. -/
def imageOf (sequence : Nat) : FieldImage := { image with sequence := sequence }

/-- A line of M0 and M1 before the last; a bad one; the last line of a valid record and of one with a defect too few; copies erased, bad,
with the last line of a valid image and of one of sequence 0; every pair of classes of the two copies. -/
theorem witness_LoaderReadsTheCopies :
    (∀ s ∈ [loading .m0 62 (some mfgOne) none (.clean (.mfg mfgOne 62) false), loading .m0 63 (some mfgOne) none (.corrected 4 (.mfg mfgOne 63) false),
        loading .m0 0 none none (.uncorrectable false), loading .m1 63 none none (.clean (.bytes zeroLine) true),
        loading .fieldA 446 none none (.clean (.bytes zeroLine) false), loading .fieldA 0 none none (.clean (.bytes erasedLine) false),
        loading .fieldA 447 none none (.uncorrectable true), loading .fieldB 0 none (some .blank) (.clean (.bytes erasedLine) false),
        loading .fieldB 1 none (some (.valid image)) (.uncorrectable false)],
      (s.deliveredFor .loaderReadAnswer).isSome = true ∧ s.host.channel = [] ∧
      (s.loader.state = .loadingMfg ∨ s.loader.state = .loadingField)) ∧
    (let s := loading .m0 63 (some mfgOne) none (.clean (.mfg mfgOne 63) false);
      nextMfg s.loader (.mfg mfgOne 63) = some mfgOne ∧ mfgValid mfgOne = true ∧ mfgValid { mfgOne with count := 2 } = false) ∧
    (Delivered.clean (.bytes erasedLine) false).isErased = true ∧
    (∀ i ∈ [imageOf 0, imageOf 1], ∀ t ∈ [LoaderTask.fieldA, .fieldB], ∀ a ∈ [CopyClass.blank, .invalid, .valid (imageOf 1), .valid (imageOf 2)],
      let s := { loading t 447 none (some a) (.clean (.image i 447) false) with xlat := running.xlat };
      let s := { s with loader := { s.loader with image := some i } };
      (s.deliveredFor .loaderReadAnswer).isSome = true ∧ s.host.channel = [] ∧ s.loader.state = .loadingField ∧
      s.loader.classA = some a ∧ nextImage s.loader (.image i 447) = some i ∧
      imageValid s.xlat.nb i = decide (i.sequence = 1)) := by decide +kernel

/-- A limit of 0, one above NB, and one in range; start-up ended with the link reset input asserted and not. -/
theorem witness_ChosenImageIsLoadedAndOpensThePart :
    ((({ image with elp := 0 } : FieldImage).elp = 0 ∨ starting.xlat.nb < 0) ∧ starting.xlat.nb < 260081 ∧
      ¬(image.elp = 0 ∨ starting.xlat.nb < image.elp)) ∧
    starting.host.channel = [] ∧ { starting with pins := { starting.pins with linkReset := true } }.host.channel = [] ∧
    (starting.patrol.enable = true ∧ starting.patrol.control = .run) := by decide +kernel

theorem witness_PatrolReadIsHandedOn :
    (let s := delivering { patrolling with patrol := { patrolling.patrol with outstanding := some { block := 0, line := 0, issued := true } } }
        .patrol .read (.uncorrectable true);
      (s.deliveredFor .patrolReadAnswer).isSome = true ∧ s.patrol.outstanding = some { block := 0, line := 0, issued := true } ∧
      s.health.state ≠ .failed ∧ s.loader.state = .ready ∧
      (let t := { s with health := failed.health };
        (t.deliveredFor .patrolReadAnswer).isSome = true ∧ t.health.state = .failed)) := by decide +kernel

theorem witness_AgeDeadlineMakesTheEntryEligible :
    (∃ e ∈ (withStaging (holding [entry 0 3])).staging.entries, e.order = 3) ∧
    ∀ e ∈ (withStaging (holding [entry 0 3])).staging.entries, e.order ≠ 4 := by decide +kernel

/-- The scanner at a position, with some blocks lost, in a part of ten blocks. -/
def patrolAt (block n : Nat) (lost : List Nat) : State := { running with
  xlat := { running.xlat with nb := 10, el := 10, lost := lost }
  patrol := { running.patrol with block := block, line := n } }

theorem witness_PatrolExpiryOffersAReadAndAdvances :
    failed.patrolState ≠ .running ∧ patrolling.patrolState = .running ∧ patrolling.patrol.timer.isSome = true ∧
    patrolling.patrol.outstanding.isSome = true ∧
    (∀ p ∈ [(9, 62), (8, 63), (9, 63)], let s := patrolAt p.1 p.2 [];
      s.patrolState = .running ∧ s.patrol.timer.isSome = true ∧ s.patrol.outstanding = none ∧ s.patrolSkips s.patrol.block = false) ∧
    ((patrolAt 8 63 []).patrol.block + 1 < (patrolAt 8 63 []).xlat.nb ∧ (patrolAt 9 63 []).patrol.block + 1 = (patrolAt 9 63 []).xlat.nb) ∧
    (let s := patrolAt 8 5 [8]; s.patrolSkips s.patrol.block = true ∧ s.patrol.block + 1 < s.xlat.nb ∧
      s.patrolSkips (s.patrol.block + 1) = false) ∧
    (let s := patrolAt 9 5 [9]; s.patrolSkips s.patrol.block = true ∧ s.patrol.block + 1 = s.xlat.nb ∧ s.patrolSkips 0 = false) := by
  decide +kernel

/-- Three blocks skipped within the pass, to the last block; blocks 8 and 9, then 0 and 1 through the pass end; the highest pass count. -/
theorem witness_PatrolExpiryOffersAReadAndAdvances_skips :
    (let s := patrolAt 6 5 [6, 7, 8];
      s.patrolState = .running ∧ s.patrol.timer.isSome = true ∧ s.patrol.outstanding = none ∧
      (∀ i, i < 3 → s.patrolSkips (6 + i) = true) ∧ 6 + 3 < s.xlat.nb ∧ s.patrolSkips (6 + 3) = false) ∧
    (let s := patrolAt 8 0 [0, 1, 8, 9];
      let s := { s with patrol := { s.patrol with passCount := 4294967295 } };
      s.patrolState = .running ∧ s.patrol.timer.isSome = true ∧ s.patrol.outstanding = none ∧ s.patrol.block < s.xlat.nb ∧
      (∀ b, 8 ≤ b → b < s.xlat.nb → s.patrolSkips b = true) ∧ (∀ i, i < 2 → s.patrolSkips i = true) ∧ 2 < s.xlat.nb ∧
      s.patrolSkips 2 = false) := by
  refine ⟨by decide +kernel, ?_⟩
  refine ⟨by decide +kernel, rfl, rfl, by decide +kernel, ?_, by decide +kernel, by decide +kernel, by decide +kernel⟩
  intro b h1 h2
  have h3 : b < 10 := h2
  obtain rfl | rfl : b = 8 ∨ b = 9 := by omega
  all_goals decide +kernel

/-- A request by a cause, not by management. -/
def request (block : Nat) (cause : RelocCause) : QueueEntry := { block := block, cause := cause, byManagement := false }

/-- An engine that has nothing to take; an urgent head before a normal one; a normal head; a program in progress; no spare. -/
theorem witness_EngineTakesTheHeadAndPrepares :
    (running.inReset = false ∧ running.reloc.urgent = [] ∧ running.reloc.normal = []) ∧ (copying 0 1 none).reloc.engine ≠ .idle ∧
    failed.health.state = .failed ∧
    (let r := { resetReloc with urgent := [request 5 .uncorrectable], normal := [request 6 .corrThreshold] };
      let s := { withReloc r with
        staging := { holding [{ entry 320 0 with state := .issued }] with drainOp := some { order := 0, kind := .program } } };
      s.inReset = false ∧ s.reloc.engine = .idle ∧ s.health.state ≠ .failed ∧ s.reloc.failed = false ∧ s.host.channel = [] ∧
      s.reloc.urgent = request 5 .uncorrectable :: [] ∧ spareToAllocate s.xlat = some 0 ∧
      ∃ f ∈ s.staging.entries, f.line / 64 = 5 ∧ f.state = .issued ∧
        s.staging.drainOp = some { order := f.order, kind := .program }) ∧
    (let s := { withReloc { resetReloc with normal := [request 6 .corrThreshold] } with
        xlat := { running.xlat with spares := (List.range 2048).map fun i => (i, SpareState.inUse) } };
      s.reloc.engine = .idle ∧ s.reloc.urgent = [] ∧ s.reloc.normal = request 6 .corrThreshold :: [] ∧ s.host.channel = [] ∧
      s.health.state ≠ .failed ∧ s.reloc.failed = false ∧ spareToAllocate s.xlat = none) := by decide +kernel

theorem witness_MarkPrepareEndAndRelease :
    (let s := withReloc { (copying 0 1 none).reloc with engine := .prepare };
      s.inReset = false ∧ s.reloc.engine = .prepare ∧ s.reloc.failed = false ∧ s.health.state ≠ .failed ∧
      s.reloc.record.isSome = true) ∧
    (let s := withReloc { (copying 63 1 none).reloc with engine := .release };
      s.inReset = false ∧ s.reloc.engine = .release ∧ s.reloc.failed = false ∧ s.health.state ≠ .failed ∧
      ∃ x, s.reloc.record = some x ∧ x.spare = some 2) := by
  exact ⟨by decide +kernel, by decide +kernel, rfl, rfl, by decide, _, rfl, rfl⟩

/-- A queue of `u` urgent and `n` normal entries of blocks from 100 on. -/
def queued (u n : Nat) : Reloc := { resetReloc with
  urgent := (List.range u).map fun i => request (100 + i) .uncorrectable
  normal := (List.range n).map fun i => request (200 + i) .corrThreshold }

/-- The last places of each class; a merge into a full queue. -/
theorem witness_RequestsJoinOrMerge :
    (∀ s ∈ [withReloc (queued 0 0), withReloc (queued 4 11), withReloc (queued 0 11), withReloc (queued 4 12)],
      s.inReset = false ∧ s.reloc.failed = false ∧ s.health.state ≠ .failed ∧ s.loader.state ≠ .loadingMfg ∧
      s.loader.state ≠ .loadingField ∧ 260079 < s.xlat.nb ∧ 260079 ∉ s.xlat.lost ∧ s.reloc.record = none ∧
      s.host.channel = [] ∧ ∀ e ∈ s.reloc.urgent ++ s.reloc.normal, e.block ≠ 260079) ∧
    ((queued 4 11).urgent.length + (queued 4 11).normal.length = 15 ∧ (queued 0 11).normal.length = 11) ∧
    ((queued 4 12).normal = [] ++ request 200 .corrThreshold :: ((List.range 12).drop 1).map fun i => request (200 + i) .corrThreshold) ∧
    ((queued 4 12).urgent = [] ++ request 100 .uncorrectable :: ((List.range 4).drop 1).map fun i => request (100 + i) .uncorrectable) := by
  decide +kernel

/-- After the notice, in health FAILED before it, and during start-up; then a lost block, the block in flight, and full queues. -/
theorem witness_RequestsStoppedOrTurnedAway :
    (∀ s ∈ [withReloc { resetReloc with failed := true }, failed, { starting with xlat := running.xlat }],
      s.inReset = false ∧ s.host.channel = [] ∧ 0 < s.xlat.nb ∧
      (s.reloc.failed = true ∨ s.health.state = .failed ∨ s.loader.state = .loadingField)) ∧
    (running.health.state ≠ .failed ∧ running.loader.state = .ready) ∧
    (let s := withXlat { running.xlat with lost := [0] }; s.inReset = false ∧ s.host.channel = [] ∧ s.reloc.failed = false ∧ 0 ∈ s.xlat.lost) ∧
    (∃ x, (copying 0 1 none).reloc.record = some x ∧ x.block = 5 ∧ (copying 0 1 none).reloc.failed = false ∧
      5 ∉ (copying 0 1 none).xlat.lost) ∧
    (∀ s ∈ [withReloc (queued 0 12), withReloc (queued 15 1), withReloc (queued 16 0)],
      s.inReset = false ∧ s.host.channel = [] ∧ s.reloc.failed = false ∧ 0 ∉ s.xlat.lost ∧ s.reloc.record = none ∧
      ∀ e ∈ s.reloc.urgent ++ s.reloc.normal, e.block ≠ 0) ∧
    (12 ≤ (queued 0 12).urgent.length + (queued 0 12).normal.length) ∧
    ((queued 15 1).normal = [] ++ [request 200 .corrThreshold] ∧ (queued 15 1).urgent.length + (queued 15 1).normal.length = 16) ∧
    ((queued 16 0).normal = [] ∧ (queued 16 0).urgent.length = 16) := by
  exact ⟨by decide +kernel, by decide +kernel, by decide +kernel, ⟨_, rfl, rfl, rfl, by decide⟩, by decide +kernel, by decide +kernel,
    by decide +kernel, by decide +kernel⟩

/-- A watch entry. -/
def watched (block count : Nat) : WatchEntry := { block := block, count := count, lastBits := 1 }

/-- The part with a watch table. -/
def watching (threshold : Nat) (es : List WatchEntry) : State :=
  { running with watch := { entries := es, threshold := threshold, failed := false } }

/-- Dropped; counted at 254 with threshold 255; requested at threshold 8; inserted; inserted into a full table. -/
theorem witness_WatchReportsCountInsertAndRequest :
    running.inReset = false ∧ 1 ≤ 4 ∧ running.xlat.nb ≤ 260080 ∧
    (∀ s ∈ [watching 255 [watched 5 253], watching 8 [watched 5 7], watching 1 [], watching 8 [],
        watching 8 ((List.range 32).map fun i => watched (i + 10) (if i = 20 then 1 else 2))],
      ¬(s.watch.failed = true ∨ s.xlat.nb ≤ 5 ∨ 5 ∈ s.xlat.lost ∨
        (∃ e ∈ s.reloc.urgent ++ s.reloc.normal, e.block = 5) ∨ s.reloc.record.isSome = true)) ∧
    (min (253 + 1) 255 < 255 ∧ 8 ≤ min (7 + 1) 255) ∧
    (let s := watching 8 ((List.range 32).map fun i => watched (i + 10) (if i = 20 then 1 else 2));
      WatchFits s.watch ∧ s.watch.entries.length = 32 ∧
      s.watch.entries = s.watch.entries.take 20 ++ watched 30 1 :: s.watch.entries.drop 21 ∧
      (∀ f ∈ s.watch.entries.take 20, 1 ≤ f.count) ∧ ∀ f ∈ s.watch.entries.drop 21, 1 < f.count) := by
  unfold WatchFits
  decide +kernel

/-- A block at NB, queued, being migrated; a listed block; health FAILED; a full list; a block in no spare and in one. -/
theorem witness_LostBlockAdditionAndItsDiscard :
    (running.inReset = false ∧ ¬ 260080 < running.xlat.nb) ∧
    ((∃ e ∈ (queued 1 0).urgent ++ (queued 1 0).normal, e.block = 100) ∧
      (copying 0 1 none).reloc.record.map (fun x => x.block) = some 5) ∧
    (failed.inReset = false ∧ failed.health.state = .failed ∧ 5 < failed.xlat.nb ∧ failed.host.channel = [] ∧
      failed.reloc.urgent ++ failed.reloc.normal = [] ∧ failed.reloc.record = none) ∧
    (let s := withXlat { running.xlat with lost := [5] }; s.inReset = false ∧ 5 < s.xlat.nb ∧ s.host.channel = [] ∧ 5 ∈ s.xlat.lost) ∧
    (let s := withXlat { running.xlat with lost := (List.range 64).map (· + 6) }; 5 ∉ s.xlat.lost ∧ 64 ≤ s.xlat.lost.length) ∧
    (let s := withXlat { running.xlat with lost := (List.range 63).map (· + 6) };
      5 ∉ s.xlat.lost ∧ s.xlat.lost.length < 64 ∧ s.health.state ≠ .failed ∧ tableGet s.xlat.remap 5 = none) ∧
    tableGet [(5, ({ spare := 2, state := .inUse } : RemapEntry))] 5 = some { spare := 2, state := .inUse } := by decide +kernel

theorem witness_HealthReportTakesTheHigherState :
    running.inReset = false ∧ (2 : Nat) = max (healthCode running.health.state) 2 ∧ (1 : Nat) = max (healthCode running.health.state) 1 ∧
    (3 : Nat) = max (healthCode failed.health.state) 0 := by decide +kernel

/-- A full ring before the sequence wraps; an ending that is awaited and one that is not. -/
theorem witness_EventsAreAppendedAndEndingsTaken :
    (let b : EventBody := { kind := .blockLost, block := some 260079, spare := some 2047, line := some 63, value := 4294967295 };
      running.inReset = false ∧ (∀ x, b.block = some x → x < 260080) ∧ (∀ x, b.spare = some x → x < 2048) ∧
      (∀ x, b.line = some x → x < 64) ∧ b.value < 4294967296) ∧
    ((withLong limitPending).link.long = some limitPending ∧ limitPending.code = .setLimit ∧ limitPending.ended = none) ∧
    running.link.long = none := by
  refine ⟨⟨rfl, ?_, ?_, ?_, by decide⟩, ⟨rfl, rfl, rfl⟩, rfl⟩ <;> intro x hx <;> cases hx <;> decide

theorem witness_FailedNoticesStopEveryBlock :
    (running.inReset = false ∧ running.host.channel = [] ∧ running.link.long = none) ∧
    (∀ r ∈ [limitPending, { limitPending with code := .setConfig }, { limitPending with code := .relocateBlock }],
      ∀ posted ∈ [[], [Instr.longCommandEnding r.code .ok 0]], let s := { withLong r with posted := posted };
        s.inReset = false ∧ s.host.channel = [] ∧ r.ended = none ∧
        (posted = [] ∨ Instr.longCommandEnding r.code .ok 0 ∈ s.posted)) ∧
    (starting.inReset = false ∧ starting.host.channel = [] ∧ starting.loader.state = .loadingField) := by decide +kernel

/-- The part with a last sequence, and with a long command PENDING. -/
def heard (long : Option LongRecord) : State := { running with link := { resetLink with lastSeq := some 40, long := long } }

theorem witness_FramesPassTheChecksOfTheLink :
    State.reset.inReset = true ∧ running.inReset = false ∧
    (let s := { running with pins := { running.pins with strap := 3 } }; 91 = 88 + s.pins.strap.val ∧ 88 ≠ 88 + s.pins.strap.val) ∧
    (∀ l ∈ [Readable.none, .cached, .badCheck 9], let s := { running with link := { resetLink with readable := l } };
      s.inReset = false ∧ 88 = 88 + s.pins.strap.val) ∧
    (∀ frame ∈ [[1, 7, 0], [1, 7, 33, 0], [1, 7, 1, 0], [1, 7, 0, (1 : Byte)]], frame ≠ [] ∧
      (frame.length < 4 ∨ 32 < (frame.getD 2 0).toNat ∨ frame.length ≠ (frame.getD 2 0).toNat + 4 ∨
        frame.getLast? ≠ some (crc8 frame.dropLast))) ∧
    ((heard none).link.lastSeq = some 40 ∧ (heard none).link.lastSeq ≠ some 41) ∧ (∀ code ∈ [0, 11, 15, 20, 31, 34, (255 : Byte)],
      code ∉ [1, 2, 3, 4, 5, 6, 7, 8, 9, 10, 16, 17, 18, 19, 32, (33 : Byte)]) ∧
    ([0] : List Byte).length ≠ paramLength .flush ∧ ([] : List Byte).length = paramLength .flush ∧
    (starting.loader.state = .loadingField ∧ MgmtCode.flush ≠ .getStatus) ∧
    (failed.health.state = .failed ∧ MgmtCode.flush ∈ [MgmtCode.abort, .flush]) ∧
    (heard (some limitPending)).pendingLong ≠ none := by decide +kernel

/-- No long command, one PENDING, one ENDED. -/
theorem witness_InspectionCommandsReportTheState :
    (∀ s ∈ [heard none, heard (some limitPending), heard (some { limitPending with ended := some .ok })],
      s.inReset = false ∧ s.link.lastSeq ≠ some 41 ∧ s.Hears 41) ∧
    (heard none).link.long = none ∧ limitPending.ended = none ∧ { limitPending with ended := some .ok }.ended = some .ok := by
  unfold State.Hears
  decide +kernel

theorem witness_AckAlertClearsTheAlert :
    (heard (some limitPending)).Hears 41 ∧ { failed with log := { resetLog with alert := true } }.Hears 41 := by
  unfold State.Hears
  decide +kernel

theorem witness_SetConfigAppliesEachItem :
    (heard none).Hears 41 ∧ (heard none).health.state ≠ .failed ∧ (heard none).pendingLong = none := by
  unfold State.Hears
  decide +kernel

/-- A limit at NB, above NB, of 0, and a frozen part. -/
theorem witness_SetLimitAndFreezeLimit :
    ((heard none).Hears 41 ∧ (heard none).health.state ≠ .failed ∧ (heard none).pendingLong = none ∧
      (heard none).xlat.frozen = false) ∧
    ((0xF0 : Byte).toNat + 256 * (0xF7 : Byte).toNat + 65536 * (3 : Byte).toNat = (heard none).xlat.nb ∧
      (heard none).xlat.nb < (0xF1 : Byte).toNat + 256 * (0xF7 : Byte).toNat + 65536 * (3 : Byte).toNat) ∧
    (let s := { heard none with xlat := { running.xlat with frozen := true } }; s.Hears 41 ∧ s.xlat.frozen = true) := by
  unfold State.Hears
  decide +kernel

theorem witness_PatrolControlActsAtTheScanner :
    ((heard none).Hears 41 ∧ (heard none).health.state ≠ .failed ∧ (heard none).pendingLong = none ∧ 2 < (3 : Byte).toNat) ∧
    (failed.Hears 41 ∧ failed.health.state = .failed) ∧
    (starting.inReset = false ∧ starting.link.lastSeq ≠ some 41 ∧ starting.loader.state = .loadingField) := by
  unfold State.Hears
  decide +kernel

/-- FLUSH over an entry and over none; a block at NB, a lost block, a queue of 12, of 11 and of none. -/
theorem witness_FlushAndRelocateBlockAreLongCommands :
    (let s := withStaging (holding [entry 0 0]);
      s.Hears 41 ∧ s.health.state ≠ .failed ∧ s.pendingLong = none ∧ s.Quiet ∧
      (∃ e ∈ s.staging.entries, e.epoch ≤ s.staging.epoch) ∧ s.staging.hostSlots = [] ∧ s.staging.flushSlot = none) ∧
    (running.Hears 41 ∧ running.Quiet ∧ running.staging.entries = [] ∧ running.staging.hostSlots = []) ∧
    (running.xlat.nb ≤ (0xF0 : Byte).toNat + 256 * (0xF7 : Byte).toNat + 65536 * (3 : Byte).toNat) ∧
    (let s := withXlat { running.xlat with lost := [0] }; s.Hears 41 ∧ s.reloc.failed = false ∧ 0 ∈ s.xlat.lost) ∧
    (∀ s ∈ [withReloc (queued 0 12), withReloc (queued 0 11), withReloc (queued 0 0)],
      s.Hears 41 ∧ s.health.state ≠ .failed ∧ s.pendingLong = none ∧ s.reloc.failed = false ∧ 0 ∉ s.xlat.lost ∧
      s.reloc.record = none ∧ ∀ e ∈ s.reloc.urgent ++ s.reloc.normal, e.block ≠ 0) := by
  unfold State.Hears State.Quiet State.Rests
  decide +kernel

/-- RELOCATE_BLOCK of block 100, the second of two urgent entries, of block 200, the last of a normal class, and of block 5 in flight. -/
theorem witness_FlushAndRelocateBlockAreLongCommands_merge :
    (let s := withReloc { queued 0 12 with urgent := [request 101 .programFail, request 100 .uncorrectable] };
      s.Hears 41 ∧ s.reloc.failed = false ∧ 100 < s.xlat.nb ∧ 100 ∉ s.xlat.lost ∧ s.reloc.record = none ∧
      s.reloc.urgent = [request 101 .programFail] ++ request 100 .uncorrectable :: [] ∧
      ∀ f ∈ [request 101 .programFail] ++ [] ++ s.reloc.normal, f.block ≠ 100) ∧
    (let s := withReloc { queued 2 0 with normal := [request 201 .corrThreshold, request 200 .corrThreshold] };
      s.Hears 41 ∧ s.reloc.failed = false ∧ 200 ∉ s.xlat.lost ∧ s.reloc.record = none ∧
      s.reloc.normal = [request 201 .corrThreshold] ++ request 200 .corrThreshold :: [] ∧
      ∀ f ∈ s.reloc.urgent ++ [request 201 .corrThreshold] ++ [], f.block ≠ 200) ∧
    ((copying 0 1 none).Hears 41 ∧ (copying 0 1 none).pendingLong = none ∧ 5 ∉ (copying 0 1 none).xlat.lost ∧
      (copying 0 1 none).reloc.record.map (fun x => x.block) = some 5) := by
  unfold State.Hears
  decide +kernel

/-- A RELOCATE_BLOCK pending. -/
def relocatePending : LongRecord := { code := .relocateBlock, seq := 1, ended := none, spare := 0 }

/-- Nothing pending; a SET_LIMIT; a FLUSH; a relocation in flight; a queued one of cause MANAGEMENT and one of an urgent cause. -/
theorem witness_AbortEndsAFlushOrAQueuedRelocation :
    (∀ long ∈ [none, some limitPending, some { limitPending with code := .flush }, some relocatePending],
      (heard long).Hears 41 ∧ (heard long).health.state ≠ .failed) ∧
    (let r := { inFlight 0 1 none with byManagement := true };
      { heard (some relocatePending) with reloc := { resetReloc with engine := .copy, record := some r } }.reloc.record = some r ∧
      r.byManagement = true) ∧
    (let e : QueueEntry := { block := 5, cause := .management, byManagement := true };
      let s := { heard (some relocatePending) with reloc := { resetReloc with normal := [request 4 .corrThreshold, e] } };
      s.Hears 41 ∧ s.reloc.record = none ∧ s.reloc.normal = [request 4 .corrThreshold] ++ e :: [] ∧ e.byManagement = true ∧
      ∀ f ∈ s.reloc.urgent ++ [request 4 .corrThreshold] ++ [], f.byManagement = false ∧ f.block ≠ e.block) ∧
    (let e : QueueEntry := { block := 5, cause := .uncorrectable, byManagement := true };
      let s := { heard (some relocatePending) with reloc := { resetReloc with urgent := [request 4 .programFail, e] } };
      s.Hears 41 ∧ s.reloc.urgent = [request 4 .programFail] ++ e :: [] ∧ e.cause ≠ .management ∧
      ∀ f ∈ [request 4 .programFail] ++ [] ++ s.reloc.normal, f.byManagement = false ∧ f.block ≠ e.block) := by
  unfold State.Hears
  decide +kernel

/-- Commands of each shape of frame, with the longest parameters that a frame carries. -/
theorem witness_FramesAreReadBack :
    ∀ c ∈ [Instr.damagedFrame [1], .unknownCommand 255 255 (List.replicate 32 255), .flush 0 (List.replicate 32 1),
        .setWriteMode 1 [1, 1, 1, 0], .setPatrolInterval 2 [6, 0, 10, 0], .patrolRestart 3 [2], .relocateBlock 4 [239, 247, 3]],
      c.wellFormed = true ∧ (encodeFrame c).isSome = true := by decide +kernel

/-- A state with every table at its capacity: block 5 on its way from spare 0 to spare 2, block 6 in spare 3, 64 blocks lost, 32 reads
queued of which the head is issued, a reserve of 80. -/
def crowded : State := { running with
  array := { cells := [(1027, .unvouched)], op := none }
  xlat := { running.xlat with
    remap := [(5, { spare := 2, state := .pending (some 0) false }), (6, { spare := 3, state := .inUse })]
    spares := [(0, .inUse), (1, .retired), (2, .pending), (3, .inUse)]
    lost := (List.range 64).map (· + 300) }
  host := { running.host with
    responses := List.replicate 12 (.readResult 0 .range)
    readTags := (List.range 32).map fun i => (i, i)
    writeTags := (List.range 32).map fun i => (i, i)
    barrierTags := (List.range 4).map fun i => (i, 0)
    queue := (List.range 32).map fun i => { tag := i, addr := i, snapshot := zeroLine, coverage := 0, issued := decide (i = 0) } }
  staging := { holding ((many 64).map fun e =>
      { e with state := if e.order = 0 then .issued else .sealed, tags := if e.order < 32 then [e.order] else [] }) with
    hostSlots := (List.range 4).map fun i => { tag := i, epoch := 0, failFlag := false } }
  reloc := { queued 4 12 with engine := .copy, record := some (inFlight 0 1 none) }
  watch := { entries := (List.range 32).map fun i => watched i 255, threshold := 255, failed := false }
  log := { records := (List.range 32).map fun i => { sequence := (i + 4294967270) % 4294967296, body := { kind := .startup, value := 0 } }
           next := 6, alert := false }
  pending := [.healthReport .lostOverflow] }

theorem crowded_remap (b : Nat) (e : RemapEntry) : tableGet crowded.xlat.remap b = some e ↔
    b = 5 ∧ e = { spare := 2, state := .pending (some 0) false } ∨ b = 6 ∧ e = { spare := 3, state := .inUse } := by
  change tableGet [(5, { spare := 2, state := .pending (some 0) false }), (6, { spare := 3, state := .inUse })] b = some e ↔ _
  simp only [tableGet]
  split_ifs with h5 h6
  · subst h5
    simp [eq_comm]
  · subst h6
    simp [eq_comm]
  · simp [Ne.symm h5, Ne.symm h6]

theorem crowded_spares (i : Nat) : spareState crowded.xlat i =
    if i = 0 ∨ i = 3 then .inUse else if i = 1 then .retired else if i = 2 then .pending else .free := by
  change (tableGet [(0, SpareState.inUse), (1, .retired), (2, .pending), (3, .inUse)] i).getD .free = _
  simp only [tableGet]
  split_ifs <;> first | rfl | omega

theorem crowded_tables : TablesFit crowded.xlat where
  remap := by decide +kernel
  spares := by decide +kernel
  listed := by decide +kernel
  lost := by decide +kernel
  lostLength := by decide +kernel
  unmapped := by decide +kernel
  inUse i := by
    simp only [crowded_spares, crowded_remap]
    constructor
    · intro h
      by_cases h0 : i = 0
      · exact ⟨5, _, .inl ⟨rfl, rfl⟩, by simp [RemapEntry.Holds, h0]⟩
      · by_cases h3 : i = 3
        · exact ⟨6, _, .inr ⟨rfl, rfl⟩, h3.symm⟩
        · split_ifs at h; simp_all
    · rintro ⟨b, e, ⟨rfl, rfl⟩ | ⟨rfl, rfl⟩, h⟩ <;> simp_all [RemapEntry.Holds]
  held b c e f i hb hc he hf := by
    rw [crowded_remap] at hb hc
    rcases hb with ⟨rfl, rfl⟩ | ⟨rfl, rfl⟩ <;> rcases hc with ⟨rfl, rfl⟩ | ⟨rfl, rfl⟩ <;> simp only [RemapEntry.Holds, Option.some.injEq] at he hf <;> omega
  pending i := by
    simp only [crowded_spares, crowded_remap]
    constructor
    · intro h
      exact ⟨5, some 0, false, .inl ⟨rfl, by split_ifs at h; simp_all⟩⟩
    · rintro ⟨b, p, m, ⟨rfl, h⟩ | ⟨rfl, h⟩⟩
      · cases h
        rfl
      · cases h
  single b c e f hb hc he hf := by
    rw [crowded_remap] at hb hc
    rcases hb with ⟨rfl, rfl⟩ | ⟨rfl, rfl⟩ <;> rcases hc with ⟨rfl, rfl⟩ | ⟨rfl, rfl⟩ <;> simp_all

theorem crowded_linked : RelocLinked crowded.xlat crowded.reloc (switchWritten crowded.commit) crowded.loader where
  idle := ⟨(nomatch ·), (nomatch ·)⟩
  pendingOf b sp p m h := by
    rw [crowded_remap] at h
    rcases h with ⟨rfl, h⟩ | ⟨rfl, h⟩
    · cases h
      exact ⟨_, rfl, rfl, rfl, by simp [crowded]⟩
    · cases h
  copying q hq _ := by
    cases hq
    exact ⟨2, some 0, rfl, rfl⟩
  purpose q hq h := by
    cases hq
    exact absurd rfl h
  writing b h := by cases h
  queued := by
    have h : ∀ e ∈ crowded.reloc.urgent ++ crowded.reloc.normal, e.block ∉ crowded.xlat.lost := by decide +kernel
    exact fun e he => h e (List.mem_append.2 he)
  loading h := by cases h
  classed i h := by cases h

theorem witness_EveryStepKeepsASoundState : crowded.Sound ∧ ∃ t, step crowded = .next t := by
  refine ⟨⟨by unfold ArrayCanonical; decide +kernel, by unfold StagingFits; decide +kernel,
    by unfold StagingOrdered; decide +kernel, by unfold RelocFits; decide +kernel,
    ⟨by decide +kernel, by decide +kernel, fun _ _ h => by simp [crowded, running, resetHost] at h, by decide +kernel,
      by unfold TagsMatch; decide +kernel, by unfold TagsMatch; decide +kernel, by unfold TagsMatch; decide +kernel⟩,
    ⟨crowded_tables, crowded_linked⟩, by unfold WatchFits; decide +kernel,
    by decide +kernel, by decide +kernel, by decide +kernel, fun i r h => ?_⟩, _, rfl⟩
  have hi : i < 32 := (List.getElem?_eq_some_iff.1 h).1
  have all : ∀ i < 32, (crowded.log.records[i]?).all (fun r =>
      decide ((r.sequence + (crowded.log.records.length - i)) % 4294967296 = crowded.log.next)) = true := by decide +kernel
  simpa [h] using all i hi

theorem witness_HealthAndFrozenLimitsStandBetweenResets :
    let s := { heard none with xlat := { running.xlat with frozen := true } };
    (∃ t, exec (.setLimit 41 [1, 0, 0, 0]) s = .next t) ∧ s.xlat.frozen = true ∧ s.loader.state ≠ .loadingMfg ∧
    s.loader.state ≠ .loadingField := ⟨⟨_, rfl⟩, rfl, by decide, by decide⟩

/-- A program in progress, and a line that is not its own. -/
theorem witness_OnlyTheEndOfAProgramChangesTheArray :
    let s := busy .drain .program (some (.bytes zeroLine, false));
    (∃ t, exec (.mediaAnswer 5 (.program .fail) .choiceFirst) s = .next t) ∧
    ∀ op, s.array.op = some op → op.kind = .program → 1026 ≠ op.pblock * 64 + op.line := by
  refine ⟨⟨_, rfl⟩, ?_⟩
  intro op h
  cases h
  decide

/-! ## Small tests; each names the rule or table that its expected result comes from -/

/-- Table 2-2. -/
theorem test_slip_table :
    let x := { resetXlat with defects := [16, 20, 21, 100] };
    [0, 2, 3, 80, 81, 260075].map (slipLocation x) = [17, 19, 22, 99, 101, 260095] := by decide +kernel

/-- The check value of the CRC-8 of section 10.7 over the digits 1 to 9. -/
theorem test_crc : crc8 [0x31, 0x32, 0x33, 0x34, 0x35, 0x36, 0x37, 0x38, 0x39] = 0xF4 := by decide +kernel

/-- R139, R185: STARTUP carries sequence 1 and the strap value; the first read is of M0. -/
theorem test_release :
    let t := after (.powerOnResetRelease 2) State.reset;
    t.log.records = [{ sequence := 1, body := { kind := .startup, value := 2 } }] ∧ t.array.op.map (·.pblock) = some 0 ∧
    t.loader.state = .loadingMfg := by decide +kernel

/-- R16: a program cut short. -/
theorem test_power_on_reset :
    cellAt (after .powerOnReset (busy .drain .program (some (.bytes zeroLine, false)))).array.cells 1027 = .unvouched := by
  decide +kernel

/-- R123, R138: after an answer in FAILED neither the engine nor the commit unit is given the port again. -/
theorem test_no_offer_in_failed :
    let s := { delivering (copying 4 1 none) .relocation .read (.clean (.bytes zeroLine) false) with health := failed.health };
    let c := { committed .done (committing .b 9 none).commit running.xlat resetReloc none with health := failed.health };
    (after .copyReadAnswer s).busy = false ∧ (after .commitProgramAnswer c).busy = false ∧
    (after .copyReadAnswer s).reloc.record = s.reloc.record := by decide +kernel

/-- R62, R161: a failing answer of the drain in FAILED finds its entry discarded, and no counter rises. -/
theorem test_drain_fail_in_failed :
    let s := draining .program (.program .fail) [{ entry 0 0 with state := .issued, tags := [4] }];
    let t := after .drainProgramAnswer { s with health := failed.health, host := { s.host with writeTags := [(4, 0)] } };
    t.staging.entries = [] ∧ t.host.responses = [.writeAck 4 .mediaFail] ∧ t.health.counters = zeroCounters := by decide +kernel

/-- R84: an ISSUED read becomes abandoned. -/
theorem test_link_reset_abandons :
    let q : ReadRecord := { tag := 3, addr := 9, snapshot := zeroLine, coverage := 0, issued := true };
    let t := after .hostLinkResetAssert (withHost { running.host with queue := [q], readTags := [(3, 9)] });
    t.host.abandoned = some 9 ∧ t.host.readTags = [] ∧ t.host.reserve = 1 ∧
    (after .hostLinkResetRelease t).host.ready = .recovering := by decide +kernel

/-- R46, R79: a read of a line staged in full is answered from the snapshot, the newer bytes over the older. -/
theorem test_read_snapshot :
    let s := withStaging (holding [{ entry 64 0 with state := .sealed, data := line 1, mask := fullMask },
      { entry 64 1 with data := line 2, mask := 1 }]);
    (after (.read 3 64) s).host.responses = [.readResult 3 (.ok ((line 1).set 0 2))] := by decide +kernel

/-- R79, R80: a read that the buffer does not hold is issued at once at an IDLE port, at line 1 of slip location 17. -/
theorem test_read_issued :
    (after (.read 3 65) running).array.op.map (fun o => (o.pblock, o.line)) = some (17, 1) := by decide +kernel

/-- R42, R73: two writes of one line in one epoch share an entry. -/
theorem test_write_merges :
    let t := after (.write 1 64 (line 2) 2) (after (.write 0 64 (line 1) 1) running);
    t.staging.entries.map (fun e => (e.line, e.mask)) = [(64, 3)] ∧
    t.host.responses = [.writeAck 0 .accepted, .writeAck 1 .accepted] := by decide +kernel

/-- R41, R42: after a barrier the next write of the line takes a new entry of the next epoch. -/
theorem test_barrier_separates :
    let t := after (.write 1 64 (line 2) 2) (after (.barrier 0) (after (.write 0 64 (line 1) 1) running));
    t.staging.entries.map (fun e => e.epoch) = [0, 1] ∧ t.staging.hostSlots.map (fun r => r.epoch) = [0] := by decide +kernel

/-- R68: the responses are taken in the order they were produced. -/
theorem test_response_order :
    (after .responseTaken (after (.write 1 0 zeroLine 1) (after (.write 0 64 zeroLine 1) running))).host.responses =
      [.writeAck 1 .accepted] := by decide +kernel

/-- R8, R15: a late answer is discarded. -/
theorem test_late_answer : (after (.mediaAnswer 4 (.program .done) .choiceFirst) (busy .drain .program none)).port.nextId = 6 ∧
    (after (.mediaAnswer 4 (.program .done) .choiceFirst) (busy .drain .program none)).busy = true := by decide +kernel

/-- R14: a timeout's record. -/
theorem test_timeout_event :
    (after (.mediaTimeout .deliveryFirst .eventFirst) (busy .patrol .read none)).log.records.map (fun r => (r.body.kind, r.body.value)) =
      [(.mediaTimeout, 16)] := by decide +kernel

/-- R81: one byte the snapshot does not hold makes an UNCORRECTABLE read POISON. -/
theorem test_host_read_poison :
    let q : ReadRecord := { tag := 3, addr := 9, snapshot := zeroLine, coverage := fullMask - 1, issued := true };
    (after .hostReadAnswer (delivering (withHost { running.host with queue := [q], readTags := [(3, 9)] }) .hostRead .read
      (.uncorrectable false))).host.responses = [.readResult 3 .poison] := by decide +kernel

/-- R51: the staged byte over the bytes read. -/
theorem test_merged_line :
    ((after .rmwReadAnswer (draining .read (.corrected 1 (.bytes (line 9)) false) [{ entry 0 0 with state := .issued }])).array.op.map
      (fun o => o.payload)) = some (some (.bytes ((line 9).set 0 7), false)) := by decide +kernel

/-- R52, R58: the last entry of a barrier's epoch is freed. -/
theorem test_drain_done :
    let s := draining .program (.program .done) [{ entry 0 0 with state := .issued, tags := [4] }];
    let t := { s with
      staging := { s.staging with epoch := 1, hostSlots := [{ tag := 2, epoch := 0, failFlag := false }] }
      host := { s.host with writeTags := [(4, 0)], barrierTags := [(2, 0)] } };
    (after .drainProgramAnswer t).host.responses = [.writeAck 4 .durable, .barrierDone 2 .durable] := by decide +kernel

/-- R53: a failed program holds the block's other entries too. -/
theorem test_drain_fail :
    (after .drainProgramAnswer (draining .program (.program .fail) [{ entry 0 0 with state := .issued }, entry 63 1, entry 64 2])).staging.entries.map
      (fun e => (e.state, e.hold)) = [(.opened, .srcFailed), (.opened, .srcFailed), (.opened, .none)] := by decide +kernel

/-- Table 6-3: a line poisoned before is copied poisoned. -/
theorem test_copy_poison :
    ((after .copyReadAnswer (delivering (copying 4 1 none) .relocation .read (.clean (.bytes (line 9)) true))).array.op.map
      (fun o => (o.pblock, o.payload))) = some (260098, some (.bytes zeroLine, true)) := by decide +kernel

/-- R113, R28, R132: the copy is complete; the commit then captures it with the switch. -/
theorem test_copy_complete :
    let t := after .copyProgramAnswer (delivering (copying 63 1 none) .relocation .program (.program .done));
    t.reloc.engine = .commitWait ∧ t.posted = [.commitRequest .engine] ∧
    (after (.commitRequest .engine) t).commit.writing.map (fun w => (w.target, w.switch, w.image.remap)) =
      some (.b, some 5, [(5, 2)]) := by decide +kernel

/-- R27, R114: a spare failure at attempt 1 of 3 takes the next FREE spare. -/
theorem test_copy_retry :
    let t := after .copyProgramAnswer (delivering (copying 30 1 none) .relocation .program (.program .fail));
    t.reloc.record.map (fun x => (x.spare, x.attempt, x.cursor)) = some (some 3, 2, 0) ∧
    spareState t.xlat 2 = .retired ∧ spareState t.xlat 3 = .pending := by decide +kernel

/-- R127: the header is the last line programmed. -/
theorem test_commit_steps :
    [0, 62, 63, 446, 447].map (fun k => (imageBlock .b (imageLineOf k), imageLineOf k % 64)) =
      [(9, 1), (9, 63), (10, 0), (15, 63), (9, 0)] := by decide +kernel

/-- R137: the commit moves to the other copy under a new sequence number. -/
theorem test_commit_moves :
    (after .commitProgramAnswer (committed .fail (committing .b 9 none).commit running.xlat resetReloc none)).commit.writing.map
      (fun w => (w.target, w.step, w.image.sequence, w.image.otherCopy)) = some (.a, 0, 2, .failed) := by decide +kernel

/-- R150: an UNCORRECTABLE line that is poisoned already makes no request. -/
theorem test_patrol_poisoned :
    let s := delivering { patrolling with patrol := { patrolling.patrol with outstanding := some { block := 0, line := 0, issued := true } } }
      .patrol .read (.uncorrectable true);
    (after .patrolReadAnswer s).posted = [] ∧ (after .patrolReadAnswer s).health.counters.uncorrectableSeen = 1 := by decide +kernel

/-- R140, R24: NB is 260,080 less the number of defects. -/
theorem test_loader_mfg :
    (after .loaderReadAnswer (loading .m0 63 (some mfgOne) none (.clean (.mfg mfgOne 63) false))).xlat.nb = 260079 := by decide +kernel

/-- R48: an entry below the threshold waits for its age deadline. -/
theorem test_age :
    (withStaging (holding [entry 0 3])).choice = none ∧
    (after (.ageDeadlineExpiry 3) (withStaging (holding [entry 0 3]))).staging.entries.map (fun e => e.state) = [.issued] := by
  decide +kernel

/-- R95, R149: counts 5 and 1 at a pass end. -/
theorem test_pass_end :
    let t := after .patrolExpiry { patrolAt 9 63 [] with watch := { entries := [watched 3 5, watched 4 1], threshold := 8, failed := false } };
    t.watch.entries = [watched 3 2] ∧ t.patrol.passCount = 1 := by decide +kernel

/-- R110, R22: the engine takes the urgent head first, and copies from its slip location. -/
theorem test_take_head :
    let t := after .engineTakeHead (withReloc (queued 1 1));
    t.reloc.record.map (fun x => (x.block, x.source, x.spare)) = some (100, some 116, some 0) ∧
    t.array.op.map (fun o => o.pblock) = some 116 := by decide +kernel

/-- R116: the release. -/
theorem test_release_done :
    let s := { withReloc { (copying 63 1 none).reloc with engine := .release } with staging := holding [{ entry 320 0 with hold := .migrating }] };
    let t := after .relocationRelease s;
    t.staging.entries.map (fun e => e.hold) = [.none] ∧ t.reloc.engine = .idle ∧ t.health.counters.relocationsCompleted = 1 := by
  decide +kernel

/-- R34: a lost block in a spare. -/
theorem test_lost :
    let s := withXlat { running.xlat with remap := [(5, { spare := 2, state := .inUse })], spares := [(2, .inUse)] };
    let t := after (.lostBlockAddition 5 .queue) s;
    t.xlat.lost = [5] ∧ t.xlat.remap = [] ∧ spareState t.xlat 2 = .retired ∧
    t.posted = [.commitRequest .queue, .healthReport (.lostLength 1)] := by decide +kernel

/-- Table 9-1: 129 FREE spares, 128, none. -/
theorem test_health :
    [129, 128, 0].map (fun n => (after (.healthReport (.freeSpares n)) running).health.state) = [.normal, .lowSpares, .degraded] := by
  decide +kernel

/-- R163: the sequence after 4,294,967,295 is 0, and the oldest of 32 records leaves. -/
theorem test_log_wraps :
    let t := after (.eventAppend { kind := .startup, value := 0 }) { crowded with log := { crowded.log with next := 4294967295 } };
    t.log.next = 0 ∧ t.log.records.length = 32 ∧ t.log.records.getLast?.map (·.sequence) = some 4294967295 := by decide +kernel

/-- Table 10-5, steps 1 and 3: the FLUSH closes epoch 22, and its repetition closes nothing. -/
theorem test_flush_retried :
    let s := { heard none with
      staging := { holding [{ entry 0 0 with epoch := 22 }, { entry 64 1 with epoch := 22 }, { entry 128 2 with epoch := 22 }] with epoch := 22 } };
    let t := after (.flush 41 []) s;
    t.staging.epoch = 23 ∧ t.link.long = some { code := .flush, seq := 41, ended := none, spare := 0 } ∧ after (.flush 41 []) t = t := by
  decide +kernel

/-- Table 10-5, step 6: the payload of GET_RESULT; its frame carries status OK, the sequence byte and five bytes. -/
theorem test_get_result :
    let t := after (.getResult 43 []) (heard (some { code := .flush, seq := 41, ended := some .ok, spare := 0 }));
    (readableFrame t.link).take 8 = [0, 43, 5, 32, 41, 0, 0, 0] := by decide +kernel

/-- Table 10-8: the payload of GET_STATUS has 58 bytes; NB, 260,080, is in its bytes 5 to 7. -/
theorem test_get_status :
    let f := readableFrame (after (.getStatus 1 []) running).link;
    f.length = 62 ∧ (f.drop 8).take 3 = [0xF0, 0xF7, 3] := by decide +kernel

/-- R94, R179: a lowered threshold requests the least recently updated block first. -/
theorem test_threshold :
    (after (.setCorrectionThreshold 1 [4, 0, 3, 0]) (watching 8 [watched 1 4, watched 2 2, watched 3 3])).posted =
      [.relocRequest 3 .corrThreshold, .relocRequest 1 .corrThreshold] := by decide +kernel

/-- R180: 200,000 is taken, and lowers EL alone. -/
theorem test_set_limit :
    (after (.setLimit 1 [64, 13, 3, 0]) running).xlat.el = 200000 ∧ (after (.setLimit 1 [64, 13, 3, 0]) running).xlat.elp = 260080 := by
  decide +kernel

/-- R152: RESTART from HOLD. -/
theorem test_patrol_restart :
    let t := after (.patrolRestart 2 [2]) (after (.patrolStop 1 [0]) (patrolAt 3 4 []));
    (t.patrol.block, t.patrol.line, t.patrol.timer) = (0, 0, some 100) := by decide +kernel

/-- R107: an entry of an internal cause stays when its command is aborted. -/
theorem test_abort_internal :
    let e : QueueEntry := { block := 5, cause := .uncorrectable, byManagement := true };
    (after (.abort 41 []) { heard (some relocatePending) with reloc := { resetReloc with urgent := [e] } }).reloc.urgent =
      [request 5 .uncorrectable] := by decide +kernel

/-- R8, R15: an answer of the other kind that carries the identifier ends the operation. -/
theorem test_other_kind :
    let t := after (.mediaAnswer 5 (.program .done) .deliveryFirst) (busy .patrol .read none);
    t.busy = false ∧ t.posted = [.patrolReadAnswer] := by decide +kernel

/-- R146: the pass count does not return to 0. -/
theorem test_pass_count_stays :
    let s := patrolAt 9 63 [];
    (after .patrolExpiry { s with patrol := { s.patrol with passCount := 4294967295 } }).patrol.passCount = 4294967295 := by
  decide +kernel

/-- R168, R185: with straps 2 the part answers at address 90 only, and not in reset. -/
theorem test_link_address :
    let s := { running with pins := { running.pins with strap := 2 } };
    (s.readTransaction 90 5).isSome = true ∧ s.readTransaction 88 5 = none ∧ State.reset.readTransaction 88 5 = none := by
  decide +kernel

/-- R104, R184: RELOCATE_BLOCK of block 1,000 into an empty queue. -/
theorem test_relocate_empty :
    let t := after (.relocateBlock 20 [232, 3, 0]) (heard none);
    t.reloc.normal = [{ block := 1000, cause := .management, byManagement := true }] ∧ t.posted = [.engineTakeHead] := by
  decide +kernel

/-- R29, R33: the prior spare retires at the switch. -/
theorem test_switch_retires_prior :
    let t := after .commitProgramAnswer (committed .done
      { (committing .b 447 (some 5)).commit with waiters := [{ party := .engine, current := true }] } (switching (some 1))
      (waiting .switch) none);
    spareState t.xlat 1 = .retired ∧ spareState t.xlat 2 = .inUse ∧ t.reloc.engine = .release := by decide +kernel

/-- R119, R34: an abandonment with src_failed lists the block at once. -/
theorem test_abandon_lists :
    let s := copying 30 3 none;
    let s := { s with reloc := { s.reloc with record := s.reloc.record.map fun x => { x with srcFailed := true } } };
    let t := after .copyProgramAnswer (delivering s .relocation .program (.program .fail));
    t.xlat.lost = [5] ∧ t.reloc.engine = .commitWait ∧ spareState t.xlat 2 = .retired := by decide +kernel

end Sys2Proof.Tests
end

section
/-! SUPPORT. The end of an operation at the array and at the port: what it does to the lines, and the next state that the array's
answers, the media timeout and a power-on reset leave. -/

namespace Sys2Proof.Machine

/-! ## The end of an operation at the array (R3, R5) -/

@[simp] theorem endArrayOp_op (a : ArrayState) (r : ProgramResult) : (endArrayOp a r).op = none := by
  unfold endArrayOp
  cases h : a.op with
  | none => exact h
  | some op => cases hk : op.kind <;> simp only [hk]

/-- The end of a read leaves every line (R3). -/
theorem endArrayOp_read {a : ArrayState} {o : ArrayOp} (ho : a.op = some o) (hk : o.kind = .read) (r : ProgramResult) :
    endArrayOp a r = { a with op := none } := by
  simp only [endArrayOp, ho, hk]

/-- The end of a program sets its own line (R5). -/
theorem endArrayOp_program {a : ArrayState} {o : ArrayOp} (ho : a.op = some o) (hk : o.kind = .program) (r : ProgramResult)
    (key : Nat) : cellAt (endArrayOp a r).cells key =
      if key = o.pblock * 64 + o.line then programmedCell o r else cellAt a.cells key := by
  rw [endArrayOp_cellAt, ho]
  simp only [hk, true_and]
  rfl

/-- A line that is not that of a begun program keeps its cell at the end of the operation. -/
theorem endArrayOp_other {a : ArrayState} {key : Nat}
    (h : ∀ op, a.op = some op → op.kind = .program → key ≠ op.pblock * 64 + op.line) (r : ProgramResult) :
    cellAt (endArrayOp a r).cells key = cellAt a.cells key := by
  rw [endArrayOp_cellAt]
  cases ho : a.op with
  | none => rfl
  | some op => exact if_neg fun hp => h op ho hp.1 hp.2

/-! ## Which commands reach the lines -/

/-- No change but the end of an operation and a power-on reset reaches the lines of the array. -/
theorem Change.cells {s t : State} (h : Change s t) : t.array.cells = s.array.cells := by
  cases h <;> rfl

theorem Changes.cells {s t : State} (h : Changes s t) : t.array.cells = s.array.cells := by
  induction h with
  | refl => rfl
  | tail _ last ih => exact last.cells.trans ih

/-- A power-on reset abandons the operation at the array. -/
theorem abandonArrayOp_op (s : State) : (abandonArrayOp s).op = none := by
  unfold abandonArrayOp
  split
  · exact endArrayOp_op _ _
  · rfl

/-- A power-on reset leaves every line but that of a program it cuts short (R16, R5). -/
theorem abandonArrayOp_other {s : State} {key : Nat}
    (h : ∀ op, s.port.record.isSome = true → s.array.op = some op → op.kind = .program → key ≠ op.pblock * 64 + op.line) :
    cellAt (abandonArrayOp s).cells key = cellAt s.array.cells key := by
  unfold abandonArrayOp
  split
  next hr => exact endArrayOp_other (fun op => h op hr) _
  next => rfl

/-- The array does not vouch for the line of a program that a power-on reset cuts short (R16, R5). -/
theorem abandonArrayOp_own {s : State} {op : ArrayOp} (hr : s.port.record.isSome = true) (ho : s.array.op = some op)
    (hk : op.kind = .program) : cellAt (abandonArrayOp s).cells (arrayKey op.pblock op.line) = .unvouched := by
  unfold abandonArrayOp
  rw [if_pos hr]
  exact (endArrayOp_program ho hk _ _).trans (if_pos rfl)

theorem exec_powerOnReset (s : State) :
    exec .powerOnReset s = .next (s.setPins { s.pins with porInput := true }).powerCycle := rfl

theorem exec_supplyFall (s : State) :
    exec .supplyFall s = .next (s.setPins { s.pins with supplyLow := true }).powerCycle := rfl

/-- A command that is a power-on reset leaves the array as `abandonArrayOp` gives it. -/
theorem exec_array_of_isPowerReset {c : Instr} {s t : State} (hc : Changes.isPowerReset c = true) (h : exec c s = .next t) :
    t.array = abandonArrayOp s := by
  cases c <;> simp only [Changes.isPowerReset, Bool.false_eq_true] at hc
  case powerOnReset => rw [exec_powerOnReset] at h; cases h; rfl
  case supplyFall => rw [exec_supplyFall] at h; cases h; rfl

/-- A command that neither ends an operation nor resets the part leaves the lines of the array. -/
theorem exec_cells {c : Instr} {s t : State} (he : Changes.endsOperation c = false) (hp : Changes.isPowerReset c = false)
    (h : exec c s = .next t) : t.array.cells = s.array.cells := by
  obtain ⟨u, hu, hc | ⟨hc, _⟩ | ⟨hc, _⟩⟩ := Changes.exec_answers c s
  · rw [h] at hu
    cases hu
    exact hc.cells
  · rw [he] at hc; cases hc
  · rw [hp] at hc; cases hc

/-- Whatever the command, a line that is not that of the program the array has begun keeps its cell. -/
theorem exec_other_cells {c : Instr} {s t : State} {key : Nat} (h : exec c s = .next t)
    (hk : ∀ op, s.array.op = some op → op.kind = .program → key ≠ op.pblock * 64 + op.line) :
    cellAt t.array.cells key = cellAt s.array.cells key := by
  cases hp : Changes.isPowerReset c with
  | true =>
    rw [exec_array_of_isPowerReset hp h]
    exact abandonArrayOp_other fun op _ => hk op
  | false =>
    obtain ⟨u, hu, hc | ⟨_, x, hc⟩ | ⟨hc, _⟩⟩ := Changes.exec_answers c s
    · rw [h] at hu
      cases hu
      rw [hc.cells]
    · rw [h] at hu
      cases hu
      rw [hc.cells]
      exact endArrayOp_other hk x
    · rw [hp] at hc; cases hc

/-- Settles O60: every command is a sequence of changes that leave the lines, after the end of an operation at the array for the
commands that end one; a power-on reset ends it by itself. -/
theorem onlyTheEndOfAProgramChangesTheArray : Obligations.OnlyTheEndOfAProgramChangesTheArray := by
  intro c s t h
  refine ⟨fun hpor hfall htimeout hanswer => exec_cells ?_ ?_ h, fun key hk => exec_other_cells h hk⟩
  · cases c with
    | mediaAnswer id answer order => exact absurd rfl (hanswer id answer order)
    | mediaTimeout order event => exact absurd rfl (htimeout order event)
    | _ => rfl
  · cases c with
    | powerOnReset => exact absurd rfl hpor
    | supplyFall => exact absurd rfl hfall
    | _ => rfl

/-- Settles O3: both resets are the power cycle of the state with the pin set, and the array's part of it is `abandonArrayOp`. -/
theorem powerOnResetLosesEveryVolatileState : Obligations.PowerOnResetLosesEveryVolatileState :=
  ⟨fun s => ⟨exec_powerOnReset s, exec_supplyFall s⟩, fun s => ⟨abandonArrayOp_op s, fun _ hk => abandonArrayOp_other hk,
    fun _ hr ho hk => abandonArrayOp_own hr ho hk⟩⟩

/-! ## The end of an operation at the port (R8, R9, R14) -/

/-- The state that the end of an operation leaves before the arbiter chooses: the port IDLE, the array as given, the answer delivered. -/
theorem endOp_setArray (s : State) (a : ArrayState) (r : OpRecord) (d : Delivered) :
    (s.setArray a).endOp r d = { s with
      port := { s.port with record := none }
      array := a
      deliveries := s.deliveries ++ [{ record := r, answer := d }]
      posted := s.posted ++ [deliveryCommand r] } := rfl

@[simp] theorem chooseBefore_choiceFirst (s : State) : s.chooseBefore .choiceFirst = s.arbitrate := rfl

@[simp] theorem chooseBefore_deliveryFirst (s : State) : s.chooseBefore .deliveryFirst = s := rfl

/-- An answer that carries the record's identifier ends the operation (R8). -/
theorem exec_mediaAnswer {s : State} {r : OpRecord} (hr : s.port.record = some r) (answer : ArrayAnswer) (order : AnswerOrder) :
    exec (.mediaAnswer r.id answer order) s = .next (s.answerOp r answer order) := by
  show execMediaAnswer r.id answer order s = _
  simp only [execMediaAnswer, hr, if_true]

/-- An answer at an IDLE port, or with another identifier, is discarded (R8). -/
theorem exec_mediaAnswer_discarded {s : State} {id : BitVec 16}
    (h : s.port.record = none ∨ ∃ r, s.port.record = some r ∧ r.id ≠ id) (answer : ArrayAnswer) (order : AnswerOrder) :
    exec (.mediaAnswer id answer order) s = .next s := by
  show execMediaAnswer id answer order s = _
  rcases h with hr | ⟨r, hr, hid⟩
  · simp only [execMediaAnswer, hr]
  · simp only [execMediaAnswer, hr, if_neg hid]

theorem exec_mediaTimeout {s : State} {r : OpRecord} (hr : s.port.record = some r) (order : AnswerOrder) (event : TimeoutOrder) :
    exec (.mediaTimeout order event) s = .next (s.timeoutOp r order event) := by
  show execMediaTimeout order event s = _
  simp only [execMediaTimeout, hr]

theorem exec_mediaTimeout_idle {s : State} (hr : s.port.record = none) (order : AnswerOrder) (event : TimeoutOrder) :
    exec (.mediaTimeout order event) s = .next s := by
  show execMediaTimeout order event s = _
  simp only [execMediaTimeout, hr]

section
variable {s : State} {r : OpRecord} (order : AnswerOrder)

/-- The answer of a read at a read (R3, R8). -/
theorem answerOp_read (hk : r.kind = .read) (outcome : ArrayOutcome) (source : ReadSource) :
    s.answerOp r (.read outcome source) order =
      (((s.setArray (endArrayOp s.array .done)).useOrder (s.answerContent r source).2.2).endOp r
        (deliveredRead outcome (s.answerContent r source).1 (s.answerContent r source).2.1)).chooseBefore order := by
  simp only [State.answerOp, hk]

/-- The answer of a program at a program (R5, R8). -/
theorem answerOp_program (hk : r.kind = .program) (result : ProgramResult) :
    s.answerOp r (.program result) order =
      ((s.setArray (endArrayOp s.array result)).endOp r (.program result)).chooseBefore order := by
  simp only [State.answerOp, hk]

/-- The answer of a read at a program (R15, log 18). -/
theorem answerOp_read_at_program (hk : r.kind = .program) (outcome : ArrayOutcome) (source : ReadSource) :
    s.answerOp r (.read outcome source) order =
      (((s.setArray (endArrayOp s.array .fail)).useOrder 1).endOp r
        (.program (Config.freeResult s.freeCount))).chooseBefore order := by
  simp only [State.answerOp, hk]

/-- The answer of a program at a read (R15, log 18). -/
theorem answerOp_program_at_read (hk : r.kind = .read) (result : ProgramResult) :
    s.answerOp r (.program result) order =
      (((s.setArray (endArrayOp s.array .done)).useOrder 1).endOp r
        (deliveredRead (Config.freeRead s.freeCount).1 (Config.freeRead s.freeCount).2.1
          (Config.freeRead s.freeCount).2.2)).chooseBefore order := by
  simp only [State.answerOp, hk]

end

/-- Settles O13: the rows of Table 1-2, by the count of corrected bits. -/
theorem answersAreDeliveredAsTable12Gives : Obligations.AnswersAreDeliveredAsTable12Gives := by
  intro content poison
  refine ⟨rfl, fun n h1 h4 => ?_, rfl, fun n h4 => ?_, rfl, rfl, rfl, rfl, rfl⟩
  · simp only [deliveredRead, if_neg (show n ≠ 0 by omega), if_pos h4]
  · simp only [deliveredRead, if_neg (show n ≠ 0 by omega), if_neg (show ¬ n ≤ 4 by omega)]

/-- Settles O14: the read's end leaves the lines, and the three sources of its content are the cases of `answerContent`. -/
theorem readAnswerEndsTheOperation : Obligations.ReadAnswerEndsTheOperation := by
  intro s r o outcome hr hk ho hok ended held
  have answered (source : ReadSource) (order : AnswerOrder) :
      exec (.mediaAnswer r.id (.read outcome source) order) s =
        .next (State.chooseBefore { ended (s.answerContent r source).1 (s.answerContent r source).2.1 with
          freeCount := s.freeCount + (s.answerContent r source).2.2 } order) := by
    rw [exec_mediaAnswer hr, answerOp_read order hk, endArrayOp_read ho hok]
    rfl
  refine ⟨fun content poison => ⟨answered _ _, answered _ _⟩, fun content poison hc => ?_, fun hc => ?_⟩
  · have hs : s.answerContent r .stored = (content, poison, 0) := congrArg (readCell · s.freeCount) hc
    constructor <;> rw [answered, hs] <;> rfl
  · have hs : s.answerContent r .stored = (.bytes (Config.unvouchedLine s.freeCount).1, (Config.unvouchedLine s.freeCount).2, 1) :=
      congrArg (readCell · s.freeCount) hc
    constructor <;> rw [answered, hs] <;> rfl

/-- Settles O15: the line programmed is the one line that `endArrayOp` sets. -/
theorem programAnswerEndsTheOperation : Obligations.ProgramAnswerEndsTheOperation := by
  intro s r o content poison result hr hk ho hok hp
  have array : endArrayOp s.array result = { cells := (endArrayOp s.array result).cells, op := none } := by
    rw [← endArrayOp_op s.array result]
  refine ⟨(endArrayOp s.array result).cells, fun key => ?_, ?_⟩
  · rw [endArrayOp_program ho hok]
    cases result <;> simp only [programmedCell, hp]
  · rw [← array]
    simp only [exec_mediaAnswer hr, answerOp_program _ hk, endOp_setArray]
    exact ⟨rfl, rfl⟩

/-! ## The media timeout (R14) -/

/-- A timeout is one end of the operation with the MEDIA_TIMEOUT record beside it: appended when the event comes first, handed over when
the delivery does (R14, log 9). -/
theorem timeoutOp_eq (s : State) (r : OpRecord) (order : AnswerOrder) (event : TimeoutOrder) :
    s.timeoutOp r order event = State.chooseBefore
      (let ended := (s.setArray (timedOutArray s.array r.kind)).endOp r (deliveredTimeout r.kind)
      match event with
      | .eventFirst => { ended with log := appendRecord s.log (timeoutEvent r) }
      | .deliveryFirst => { ended with posted := ended.posted ++ [.eventAppend (timeoutEvent r)] }) order := by
  cases event <;> rfl

/-- Settles O16: the four orders of a timeout are those of `timeoutOp_eq`, and an answer of the other kind ends the operation with a free
outcome. -/
theorem timeoutsEndTheOperationAndOtherAnswersAreDiscarded :
    Obligations.TimeoutsEndTheOperationAndOtherAnswersAreDiscarded := by
  intro s
  refine ⟨fun id answer order h => exec_mediaAnswer_discarded h answer order,
    fun hr order event => exec_mediaTimeout_idle hr order event, fun r o hr ho hk => ⟨?_, ?_, ?_⟩⟩
  · refine ⟨timedOutArray s.array r.kind, fun h => by rw [h]; rfl, fun h => ?_, ?_⟩
    · rw [h]
      exact ⟨endArrayOp_op _ _, endArrayOp_program ho (hk.trans h) .fail⟩
    · simp only [exec_mediaTimeout hr, timeoutOp_eq]
      exact ⟨rfl, rfl, rfl, rfl⟩
  · intro h
    refine ⟨endArrayOp s.array .fail, endArrayOp_op _ _, endArrayOp_program ho (hk.trans h) .fail, fun outcome source => ?_⟩
    simp only [exec_mediaAnswer hr, answerOp_read_at_program _ h]
    exact ⟨rfl, rfl⟩
  · intro h result
    simp only [exec_mediaAnswer hr, answerOp_program_at_read _ h, endArrayOp_read ho (hk.trans h)]
    exact ⟨rfl, rfl⟩

end Sys2Proof.Machine
end

section
/-! SUPPORT. The arbiter's choice: when each requester offers, which offer is taken, and the operation that is then issued. -/

namespace Sys2Proof.Machine

/-! ## When each requester offers (R10) -/

theorem mayOffer_iff (s : State) : s.mayOffer = true ↔ s.health.state ≠ .failed := by
  simp [State.mayOffer]

/-- The class-1 offer is the head of the read queue while it is not ISSUED (R80). -/
theorem hostOffer_eq_some {h : HostPort} {r : ReadRecord} :
    hostOffer h = some r ↔ ∃ rest, h.queue = r :: rest ∧ r.issued = false := by
  constructor
  · intro ho
    unfold hostOffer at ho
    split at ho
    next x rest hq =>
      split at ho
      · cases ho
      next hi => cases ho; exact ⟨rest, hq, by simpa using hi⟩
    · cases ho
  · rintro ⟨rest, hq, hi⟩
    simp only [hostOffer, hq, hi, Bool.false_eq_true, if_false]

/-- The class-3 offer is a step of the engine's record in COPY (R112, R113). -/
theorem copyOffer_eq_some {r : Reloc} {x : RelocRecord} {src sp : Nat} :
    copyOffer r = some (x, src, sp) ↔ (r.engine = .copy ∧ r.failed = false ∧ r.stepOut = false) ∧
      r.record = some x ∧ x.source = some src ∧ x.spare = some sp := by
  constructor
  · intro ho
    unfold copyOffer at ho
    split at ho
    next hc =>
      split at ho
      next hr =>
        split at ho
        next hs hp => cases ho; exact ⟨hc, hr, hs, hp⟩
        · cases ho
        · cases ho
      · cases ho
    · cases ho
  · rintro ⟨hc, hr, hs, hp⟩
    simp only [copyOffer, if_pos hc, hr, hs, hp]

/-- The class-4 offer is the drain's, withdrawn while its block is lost (R23). -/
theorem drainOffered_eq_some {s : State} {e : Entry} {kind : OpKind} :
    s.drainOffered = some (e, kind) ↔ drainOffer s.staging = some (e, kind) ∧ s.xlat.isLost e.block = false := by
  constructor
  · intro ho
    unfold State.drainOffered at ho
    split at ho
    next hd =>
      split at ho
      · cases ho
      next hl => cases ho; exact ⟨hd, by simpa using hl⟩
    · cases ho
  · rintro ⟨hd, hl⟩
    simp only [State.drainOffered, hd, hl, Bool.false_eq_true, if_false]

/-- The class-5 offer is the outstanding read that is not issued (R148). -/
theorem patrolOffer_eq_some {p : Patrol} {r : PatrolRead} :
    patrolOffer p = some r ↔ p.outstanding = some r ∧ r.issued = false := by
  constructor
  · intro ho
    unfold patrolOffer at ho
    split at ho
    next hr =>
      split at ho
      · cases ho
      next hi => cases ho; exact ⟨hr, by simpa using hi⟩
    · cases ho
  · rintro ⟨hr, hi⟩
    simp only [patrolOffer, hr, hi, Bool.false_eq_true, if_false]

theorem isLost_iff (x : Xlat) (block : Nat) : x.isLost block = true ↔ block ∈ x.lost := List.contains_iff_mem

theorem isLost_eq_false (x : Xlat) (block : Nat) : x.isLost block = false ↔ block ∉ x.lost := by
  rw [← isLost_iff, Bool.not_eq_true]

section
variable (s : State)

theorem offers_hostRead_iff :
    s.offers .hostRead = true ↔ ∃ r rest, s.host.queue = r :: rest ∧ r.issued = false :=
  Option.isSome_iff_exists.trans (exists_congr fun _ => hostOffer_eq_some)

theorem offers_commit_iff : s.offers .commit = true ↔
    s.health.state ≠ .failed ∧ s.commit.writing ≠ none ∧ s.commit.stopped = false ∧ s.commit.progOut = false := by
  simp [State.offers, commitOffers, mayOffer_iff, Option.isSome_iff_ne_none, and_assoc]

theorem offers_relocation_iff : s.offers .relocation = true ↔
    s.health.state ≠ .failed ∧ s.reloc.engine = .copy ∧ s.reloc.failed = false ∧ s.reloc.stepOut = false ∧
      ∃ x src sp, s.reloc.record = some x ∧ x.source = some src ∧ x.spare = some sp := by
  simp [State.offers, mayOffer_iff, Option.isSome_iff_exists, copyOffer_eq_some, and_assoc]

theorem offers_drain_iff : s.offers .drain = true ↔
    ∃ e kind, drainOffer s.staging = some (e, kind) ∧ e.line / 64 ∉ s.xlat.lost := by
  simp only [State.offers, Option.isSome_iff_exists, Prod.exists, drainOffered_eq_some, isLost_eq_false]
  rfl

theorem offers_patrol_iff : s.offers .patrol = true ↔
    s.health.state ≠ .failed ∧ ∃ r, s.patrol.outstanding = some r ∧ r.issued = false := by
  simp only [State.offers, Bool.and_eq_true, mayOffer_iff, Option.isSome_iff_exists, patrolOffer_eq_some]

theorem offers_loader_iff : s.offers .loader = true ↔
    s.inReset = false ∧ (s.loader.state = .loadingMfg ∨ s.loader.state = .loadingField) ∧
      s.loader.task ∈ [LoaderTask.m0, .m1, .fieldA, .fieldB] ∧ s.loader.readOut = false := by
  have htask : s.loader.task ≠ .firstStart ↔ s.loader.task ∈ [LoaderTask.m0, .m1, .fieldA, .fieldB] := by
    cases s.loader.task <;> decide
  simp only [State.offers, State.loaderOffers, Loader.isLoading, Bool.and_eq_true, Bool.or_eq_true, Bool.not_eq_true',
    decide_eq_true_eq, htask, and_assoc]

/-- In health FAILED three requesters have no offer (R17, R123, R138, R154; log 16). -/
theorem offers_failed (h : s.health.state = .failed) :
    ∀ q ∈ [Requester.commit, .relocation, .patrol], s.offers q = false := by
  simp [State.offers, State.mayOffer, h]

/-! ## The choice (R11, R12) -/

/-- Without an offer there is no choice. -/
theorem choice_eq_none (h : ∀ q, s.offers q = false) : s.choice = none :=
  List.find?_eq_none.2 fun q _ => by simp [h q]

/-- The requester chosen offers, and none before it in the order in force does. -/
theorem choice_first {q : Requester} (h : s.choice = some q) :
    ∃ above below, classOrder (occupancy s.staging) = above ++ q :: below ∧
      (∀ p ∈ above, s.offers p = false) ∧ s.offers q = true := by
  obtain ⟨hq, above, below, horder, habove⟩ := List.find?_eq_some_iff_append.1 h
  exact ⟨above, below, horder, fun p hp => by simpa using habove p hp, hq⟩

end

/-! ## What the arbiter does with the offer it takes -/

/-- A chosen host read is that of the queue's head. -/
theorem hostOffer_of_choice {s : State} {r : ReadRecord} {rest : List ReadRecord} (hc : s.choice = some .hostRead)
    (hq : s.host.queue = r :: rest) : hostOffer s.host = some r := by
  obtain ⟨x, tail, hx, hi⟩ := (offers_hostRead_iff s).1 (choice_offers hc)
  cases hq.symm.trans hx
  exact hostOffer_eq_some.2 ⟨rest, hq, hi⟩

section
variable {s : State} (hb : s.busy = false)
include hb

theorem arbitrate_loader (hc : s.choice = some .loader) : s.arbitrate = s.issueLoader := by
  simp only [State.arbitrate, State.arbitrateFrom, hb, hc, Bool.false_eq_true, if_false]

theorem arbitrate_commit (hc : s.choice = some .commit) : s.arbitrate = s.issueCommit := by
  simp only [State.arbitrate, State.arbitrateFrom, hb, hc, Bool.false_eq_true, if_false]

theorem arbitrate_relocation (hc : s.choice = some .relocation) : s.arbitrate = s.issueCopy := by
  simp only [State.arbitrate, State.arbitrateFrom, hb, hc, Bool.false_eq_true, if_false]

theorem arbitrate_drain (hc : s.choice = some .drain) : s.arbitrate = s.issueDrain := by
  simp only [State.arbitrate, State.arbitrateFrom, hb, hc, Bool.false_eq_true, if_false]

theorem arbitrate_patrol (hc : s.choice = some .patrol) : s.arbitrate = s.issuePatrol := by
  simp only [State.arbitrate, State.arbitrateFrom, hb, hc, Bool.false_eq_true, if_false]

theorem arbitrate_hostRead {r : ReadRecord} {rest : List ReadRecord} (hc : s.choice = some .hostRead)
    (hq : s.host.queue = r :: rest) (hl : r.addr / 64 ∉ s.xlat.lost) : s.arbitrate = s.issueHostRead r := by
  have ho := hostOffer_of_choice hc hq
  have hn : s.xlat.isLost r.block = false := (isLost_eq_false _ _).2 hl
  simp only [State.arbitrate, State.arbitrateFrom, hb, hc, ho, hn, Bool.false_eq_true, if_false]

/-- A host read of a lost block is answered, and the arbiter chooses again (R80). -/
theorem arbitrate_lostRead {r : ReadRecord} {rest : List ReadRecord} (hc : s.choice = some .hostRead)
    (hq : s.host.queue = r :: rest) (hl : r.addr / 64 ∈ s.xlat.lost) : s.arbitrate = (s.answerLostRead r).arbitrate := by
  have ho := hostOffer_of_choice hc hq
  have hn : s.xlat.isLost r.block = true := (isLost_iff _ _).2 hl
  have hlen : s.host.queue.length = (s.answerLostRead r).host.queue.length + 1 := by
    show s.host.queue.length = (s.host.queue.drop 1).length + 1
    rw [hq]
    rfl
  rw [State.arbitrate, State.arbitrateFrom, hlen, hb, hc, ho]
  simp only [hn, Bool.false_eq_true, if_false, if_true]
  rfl

end

/-! ## The operation issued (R7) -/

theorem issueCommit_eq {s : State} {w : Writing} (hw : s.commit.writing = some w) :
    s.issueCommit = (s.setCommit { s.commit with progOut := true }).issueOp .program .commit
      (imageBlock w.target (imageLineOf w.step)) (imageLineOf w.step % 64) none
      (some (.image w.image (imageLineOf w.step), false)) := by
  simp only [State.issueCommit, hw]

theorem issueCopy_read {s : State} {x : RelocRecord} {src sp : Nat} (ho : copyOffer s.reloc = some (x, src, sp))
    (hx : x.buffer = none) :
    s.issueCopy = (s.setReloc { s.reloc with stepOut := true }).issueOp .read .relocation src x.cursor (some x.block) none := by
  simp only [State.issueCopy, ho, hx]

theorem issueCopy_program {s : State} {x : RelocRecord} {src sp : Nat} {data : Line} {poison : Bool}
    (ho : copyOffer s.reloc = some (x, src, sp)) (hx : x.buffer = some (data, poison)) :
    s.issueCopy = (s.setReloc { s.reloc with stepOut := true, record := some { x with buffer := none } }).issueOp
      .program .relocation (spareBlock sp) x.cursor none (some (.bytes data, poison)) := by
  simp only [State.issueCopy, ho, hx]

theorem issueDrain_eq {s : State} {e : Entry} {kind : OpKind} (ho : s.drainOffered = some (e, kind)) :
    s.issueDrain = (s.setStaging { s.staging with
        entries := s.staging.entries.map fun f => if f.order = e.order then { f with state := .issued } else f
        drainOp := some { order := e.order, kind := kind } }).issueOp kind .drain
      (translate s.xlat e.block) (offsetOf e.line) (some e.block)
      (if kind = .program then some (.bytes (drainPayload e).1, (drainPayload e).2) else none) := by
  simp only [State.issueDrain, ho]
  cases kind <;> rfl

theorem issuePatrol_eq {s : State} {r : PatrolRead} (hr : s.patrol.outstanding = some r) :
    s.issuePatrol = (s.setPatrol { s.patrol with outstanding := some { r with issued := true } }).issueOp .read .patrol
      (translate s.xlat r.block) r.line (some r.block) none := by
  simp only [State.issuePatrol, hr]

/-- From `s` to `t` an operation of the requester was issued: it takes the current identifier and a deadline of 2,000 µs, the counter
advances, and the array is sent the operation of the record (R6, R7, R14). -/
def IssuesFor (s t : State) (q : Requester) : Prop :=
  ∃ r payload, r.requester = q ∧ r.id = s.port.nextId ∧ r.deadline = 2000 ∧
    t.port = { record := some r, nextId := s.port.nextId + 1 } ∧
    t.array = { s.array with
      op := some { id := r.id, kind := r.kind, pblock := r.pblock, line := r.line, payload := payload } }

/-- An issue after a change of the requester's own part. -/
theorem issueOp_issuesFor {s u : State} (hp : u.port = s.port) (ha : u.array = s.array) (kind : OpKind) (q : Requester)
    (pblock line : Nat) (block : Option Nat) (payload : Option (LineContent × Bool)) :
    IssuesFor s (u.issueOp kind q pblock line block payload) q := by
  unfold IssuesFor
  rw [← hp, ← ha]
  exact ⟨_, payload, rfl, rfl, rfl, rfl, rfl⟩

/-- The arbiter issues an operation of the requester it chooses, unless that is a host read of a lost block. -/
theorem arbitrate_issuesFor {s : State} {q : Requester} (hb : s.busy = false) (hc : s.choice = some q)
    (hl : q ≠ .hostRead ∨ ∀ r rest, s.host.queue = r :: rest → r.addr / 64 ∉ s.xlat.lost) : IssuesFor s s.arbitrate q := by
  have ho := choice_offers hc
  cases q with
  | hostRead =>
    obtain ⟨r, rest, hq, _⟩ := (offers_hostRead_iff s).1 ho
    rw [arbitrate_hostRead hb hc hq (hl.resolve_left (fun h => h rfl) r rest hq)]
    exact issueOp_issuesFor rfl rfl _ _ _ _ _ _
  | commit =>
    obtain ⟨w, hw⟩ := Option.ne_none_iff_exists'.1 ((offers_commit_iff s).1 ho).2.1
    rw [arbitrate_commit hb hc, issueCommit_eq hw]
    exact issueOp_issuesFor rfl rfl _ _ _ _ _ _
  | relocation =>
    obtain ⟨_, hcopy, hfailed, hstep, x, src, sp, hr, hsrc, hsp⟩ := (offers_relocation_iff s).1 ho
    have hoffer := copyOffer_eq_some.2 ⟨⟨hcopy, hfailed, hstep⟩, hr, hsrc, hsp⟩
    rw [arbitrate_relocation hb hc]
    cases hx : x.buffer with
    | none =>
      rw [issueCopy_read hoffer hx]
      exact issueOp_issuesFor rfl rfl _ _ _ _ _ _
    | some line =>
      rw [issueCopy_program hoffer hx]
      exact issueOp_issuesFor rfl rfl _ _ _ _ _ _
  | drain =>
    obtain ⟨⟨e, kind⟩, hd⟩ := Option.isSome_iff_exists.1 ho
    rw [arbitrate_drain hb hc, issueDrain_eq hd]
    exact issueOp_issuesFor rfl rfl _ _ _ _ _ _
  | patrol =>
    obtain ⟨_, r, hr, _⟩ := (offers_patrol_iff s).1 ho
    rw [arbitrate_patrol hb hc, issuePatrol_eq hr]
    exact issueOp_issuesFor rfl rfl _ _ _ _ _ _
  | loader =>
    rw [arbitrate_loader hb hc]
    exact issueOp_issuesFor rfl rfl _ _ _ _ _ _

/-- Settles O17: the offers case by case, the choice as the first offer of the order in force, and the issue of the requester chosen. -/
theorem arbiterTakesTheHighestClass : Obligations.ArbiterTakesTheHighestClass := fun s =>
  ⟨fun h => arbitrate_of_rests (h.imp_right (choice_eq_none s)), arbitrate_rests s, offers_failed s, offers_hostRead_iff s,
    offers_commit_iff s, offers_relocation_iff s, offers_drain_iff s, offers_patrol_iff s, offers_loader_iff s,
    fun _ hb hc => ⟨choice_first s hc, arbitrate_issuesFor hb hc⟩⟩

/-- Settles O18: each class's issue is `issueOp` on the state in which its offer is withdrawn, at the location of the class. -/
theorem issueOfEachClass : Obligations.IssueOfEachClass := by
  intro s hb issued
  refine ⟨fun r rest hc hq hl => ?_, fun r rest hc hq hl => ?_, fun w hc hw => ?_,
    fun x src sp hc hr hsrc hsp => ?_, fun e kind hc hd => ?_, fun r hc hr => ?_, fun hc => ?_⟩
  · rw [arbitrate_hostRead hb hc hq hl, State.issueHostRead, hq]
    rfl
  · rw [arbitrate_lostRead hb hc hq hl, State.answerLostRead, hq]
    rfl
  · rw [arbitrate_commit hb hc, issueCommit_eq hw]
    obtain ⟨target, step, image, switch⟩ := w
    cases target <;> rfl
  · obtain ⟨_, hcopy, hfailed, hstep, _⟩ := (offers_relocation_iff s).1 (choice_offers hc)
    have hoffer := copyOffer_eq_some.2 ⟨⟨hcopy, hfailed, hstep⟩, hr, hsrc, hsp⟩
    rw [arbitrate_relocation hb hc]
    exact ⟨fun hx => issueCopy_read hoffer hx, fun data poison hx => issueCopy_program hoffer hx⟩
  · obtain ⟨f, k, hf, hl⟩ := (offers_drain_iff s).1 (choice_offers hc)
    cases hd.symm.trans hf
    rw [arbitrate_drain hb hc, issueDrain_eq (drainOffered_eq_some.2 ⟨hd, (isLost_eq_false _ _).2 hl⟩)]
    rfl
  · rw [arbitrate_patrol hb hc, issuePatrol_eq hr]
    rfl
  · rw [arbitrate_loader hb hc]
    refine ⟨fun ht => ?_, fun ht => ?_, fun ht => ?_, fun ht => ?_⟩ <;>
      simp only [State.issueLoader, loaderBlock, ht] <;> rfl

end Sys2Proof.Machine
end

section
/-! SUPPORT. The state after a power-on reset is sound. -/

namespace Sys2Proof.Machine

/-- The empty tables, the empty queue and the idle engine agree. -/
theorem reset_linked : RelocLinked resetXlat resetReloc (switchWritten resetCommit) resetLoader where
  idle := ⟨fun _ => rfl, fun _ => rfl⟩
  pendingOf _ _ _ _ h := by cases h
  copying _ h := by cases h
  purpose _ h := by cases h
  writing _ h := by cases h
  queued := by simp [resetReloc]
  loading _ := ⟨rfl, rfl, rfl⟩
  classed _ h := by cases h

theorem reset_portFits : PortFits resetHost resetStaging where
  reserve := by decide
  head := nofun
  presented := nofun
  queued := nofun
  reads := ⟨.refl _, .nil⟩
  writes := ⟨.refl _, .nil⟩
  barriers := ⟨.refl _, .nil⟩

/-- Every table is empty after a power-on reset, and so in its form. -/
theorem reset_sound : State.reset.Sound where
  array := rfl
  stagingFits := by unfold StagingFits; decide
  stagingOrdered := by simp [StagingOrdered, State.reset, resetStaging]
  relocFits := by unfold RelocFits; decide
  portFits := reset_portFits
  tablesAgree := ⟨.empty rfl rfl rfl, reset_linked⟩
  watchFits := ⟨by decide, .nil, nofun⟩
  log := by simp [LogConsecutive, State.reset, resetLog]

/-- No requester offers after a power-on reset: every queue is empty, and the loader waits for the release. -/
theorem reset_no_offer (q : Requester) : State.reset.offers q = false := by
  cases q <;> rfl

/-- Settles O58: the empty tables are sound (`reset_sound`), and every value is the one that the reset records give. -/
theorem resetLeavesASoundState : Obligations.ResetLeavesASoundState := by
  refine ⟨reset_sound, ⟨rfl, rfl, rfl, reset_no_offer⟩, ?tables, ?staging, ?host, ?watch, ?reloc, ?commit, rfl, ?patrol,
    ?health, ?log, ?link⟩
  case tables => exact ⟨rfl, rfl, rfl, rfl, fun _ => rfl, rfl, rfl, rfl, rfl⟩
  all_goals and_intros <;> rfl

end Sys2Proof.Machine
end

section
/-! SUPPORT. Every step keeps a sound state: each change keeps each part's form, and so do the end of an operation at the array and a
power-on reset. -/

namespace Sys2Proof.Machine

/-! ## What a sequence of changes of one part keeps -/

theorem stagingChanges_fit {a x : Staging} (c : Relation.ReflTransGen StagingChange a x) (h : StagingFits a) : StagingFits x := by
  induction c with
  | refl => exact h
  | tail _ last ih => exact last.fits ih

theorem stagingChanges_ordered {a x : Staging} (c : Relation.ReflTransGen StagingChange a x) (h : StagingOrdered a) :
    StagingOrdered x := by
  induction c with
  | refl => exact h
  | tail _ last ih => exact last.ordered ih

theorem relocChanges_fit {r x : Reloc} (c : Relation.ReflTransGen RelocChange r x) (h : RelocFits r) : RelocFits x := by
  induction c with
  | refl => exact h
  | tail _ last ih => exact last.fits ih

/-! ## Sound states -/

/-- Each change of a part keeps that part's form, and leaves the parts that soundness speaks of besides. -/
theorem Change.sound {s t : State} (c : Change s t) (h : s.Sound) : t.Sound := by
  cases c with
  | pins | port | patrol | link | deliveries | posted | freeCount | health | arrayOp => exact { h with }
  | limit | freeze => exact { h with tablesAgree := h.tablesAgree.limits rfl rfl rfl rfl }
  | log x hl => exact { h with log := hl.consecutive h.log }
  | watch x hw => exact { h with watchFits := hw.fits h.watchFits }
  | hosting x a ha k =>
    exact { h with
      stagingFits := stagingChanges_fit ha h.stagingFits
      stagingOrdered := stagingChanges_ordered ha h.stagingOrdered
      portFits := k h.stagingOrdered h.portFits }
  | relocation x r c _ hr k =>
    exact { h with relocFits := relocChanges_fit hr h.relocFits, tablesAgree := k h.relocFits h.tablesAgree }
  | loader x _ k | load x _ _ k => exact { h with tablesAgree := k h.tablesAgree }

theorem Changes.sound {s t : State} (c : Changes s t) (h : s.Sound) : t.Sound := by
  induction c with
  | refl => exact h
  | tail _ last ih => exact last.sound ih

/-- A power-on reset leaves the reset state's parts and keeps the array's form. -/
theorem powerCycle_sound {s : State} (h : s.Sound) : s.powerCycle.Sound :=
  { reset_sound with array := powerCycle_array s h.array }

/-- The end of an operation keeps the array's form. -/
theorem endArrayOp_sound {s : State} (h : s.Sound) (r : ProgramResult) : (s.setArray (endArrayOp s.array r)).Sound :=
  { h with array := endArrayOp_canonical h.array r }

theorem exec_sound {c : Instr} {s t : State} (h : s.Sound) (he : exec c s = .next t) : t.Sound := by
  obtain ⟨u, hu, hc | ⟨_, r, hc⟩ | ⟨_, v, hc, rfl⟩⟩ := Changes.exec_answers c s <;> cases he.symm.trans hu
  · exact hc.sound h
  · exact hc.sound (endArrayOp_sound h r)
  · exact powerCycle_sound (hc.sound h)

theorem step_sound {s t : State} (h : s.Sound) (hs : step s = .next t) : t.Sound := by
  obtain ⟨c, rest, _, he⟩ | ⟨c, _, _, _, he⟩ | ⟨_, _, he⟩ := step_cases s <;> rw [he] at hs
  · exact exec_sound (s := s.withRest rest) { h with } hs
  · exact exec_sound h hs
  · cases hs
    exact h

/-! ## What soundness gives -/

/-- A table in rising order whose keys are all one key lists it at most once. -/
theorem length_le_one_of_one_key {α : Type} {t : List (Nat × α)} (hs : tableSorted t = true)
    (hk : ∀ p ∈ t, ∀ q ∈ t, p.1 = q.1) : t.length ≤ 1 := by
  match t with
  | [] => exact Nat.zero_le 1
  | [_] => exact Nat.le_refl 1
  | p :: q :: rest =>
    have hlt : p.1 < q.1 := tableSorted_lt hs q (by simp)
    have heq : p.1 = q.1 := hk p (by simp) q (by simp)
    omega

/-- At most one spare is PENDING (R32): two would be those of two PENDING entries. -/
theorem TablesFit.one_pending {x : Xlat} (f : TablesFit x) :
    (x.spares.filter fun e => decide (e.2 = .pending)).length ≤ 1 := by
  refine length_le_one_of_one_key (filter_sorted f.spares _) fun p hp q hq => ?_
  have entry (e : Nat × SpareState) (he : e ∈ x.spares.filter fun e => decide (e.2 = .pending)) : ∃ b, pendingBy x b e.1 := by
    obtain ⟨hm, hv⟩ := List.mem_filter.1 he
    have hg : tableGet x.spares e.1 = some e.2 := tableGet_of_mem f.spares hm
    exact (f.pending_iff e.1).1 (by rw [spareState, hg, of_decide_eq_true hv]; rfl)
  obtain ⟨b, _, _, hb⟩ := entry p hp
  obtain ⟨c, _, _, hc⟩ := entry q hq
  cases f.single b c _ _ hb hc nofun nofun
  exact (RemapEntry.mk.inj (Option.some.inj (hb.symm.trans hc))).1

/-- Settles O57: a step is a sequence of changes that each keep the forms, besides the end of an operation and a power-on reset
(`step_sound`). -/
theorem everyStepKeepsASoundState : Obligations.EveryStepKeepsASoundState := by
  refine ⟨fun s t h hs => step_sound h hs, fun s h => ⟨h.portFits.queue_length, ?_, h.portFits.slots_length,
    h.tablesAgree.1.one_pending, fun b hb => ⟨h.tablesAgree.1.unmapped b hb, fun e he heq => ?_⟩⟩⟩
  · rw [h.portFits.reads.length, List.length_map]
  · subst heq
    exact h.tablesAgree.2.queued e (List.mem_append.1 he) hb

end Sys2Proof.Machine
end

section
/-! SUPPORT. The health state and the limits along the changes of a step. -/

namespace Sys2Proof.Machine

/-- The loader loads neither the manufacturing record nor a field image (Table 7-4). -/
theorem isLoading_eq_false {l : Loader} : l.isLoading = false ↔ l.state ≠ .loadingMfg ∧ l.state ≠ .loadingField := by
  simp [Loader.isLoading]

/-- Health does not fall from `s` to `t` (R157), and limits frozen in `s` after start-up stand in `t`, start-up still ended (R36, R37). -/
structure Stands (s t : State) : Prop where
  health : healthCode s.health.state ≤ healthCode t.health.state
  limits : s.xlat.frozen = true → s.loader.isLoading = false →
    t.loader.isLoading = false ∧ t.xlat.frozen = true ∧ t.xlat.el = s.xlat.el ∧ t.xlat.elp = s.xlat.elp

theorem Stands.trans {s t u : State} (a : Stands s t) (b : Stands t u) : Stands s u where
  health := a.health.trans b.health
  limits hf hl := by
    obtain ⟨hl', hf', hel, help⟩ := a.limits hf hl
    obtain ⟨hl'', hf'', hel', help'⟩ := b.limits hf' hl'
    exact ⟨hl'', hf'', hel'.trans hel, help'.trans help⟩

/-- A change of another part. -/
theorem Stands.of_eq {s t : State} (hh : t.health = s.health) (hx : t.xlat = s.xlat) (hl : t.loader = s.loader) : Stands s t where
  health := by rw [hh]
  limits hf hload := by rw [hx, hl]; exact ⟨hload, hf, rfl, rfl⟩

/-- SET_LIMIT needs the freeze flag clear, a load a loading loader, and no loader begins to load again. -/
theorem Change.stands {s t : State} (c : Change s t) : Stands s t := by
  cases c with
  | pins | port | patrol | link | deliveries | posted | freeCount | log | arrayOp | watch | hosting => exact .of_eq rfl rfl rfl
  | health x h => exact ⟨h, fun hf hl => ⟨hl, hf, rfl, rfl⟩⟩
  | limit el elp h => exact ⟨Nat.le_refl _, fun hf => absurd (h.symm.trans hf) nofun⟩
  | freeze => exact ⟨Nat.le_refl _, fun _ hl => ⟨hl, rfl, rfl, rfl⟩⟩
  | relocation x r c hx =>
    obtain ⟨hel, help, hfrozen, _⟩ := hx
    exact ⟨Nat.le_refl _, fun hf hl => ⟨hl, hfrozen.trans hf, hel, help⟩⟩
  | loader x h =>
    refine ⟨Nat.le_refl _, fun hf hl => ⟨?_, hf, rfl, rfl⟩⟩
    exact Bool.eq_false_iff.2 fun hx => absurd ((h hx).symm.trans hl) nofun
  | load x l h => exact ⟨Nat.le_refl _, fun _ hl => absurd (h.symm.trans hl) nofun⟩

theorem Changes.stands {s t : State} (c : Changes s t) : Stands s t := by
  induction c with
  | refl => exact .of_eq rfl rfl rfl
  | tail _ last ih => exact ih.trans last.stands

/-- Every command but a power-on reset lets health and frozen limits stand. -/
theorem exec_stands {c : Instr} {s t : State} (hc : Changes.isPowerReset c = false) (h : exec c s = .next t) : Stands s t := by
  obtain ⟨u, hu, hs | ⟨_, r, hs⟩ | ⟨hp, _⟩⟩ := Changes.exec_answers c s
  · cases h.symm.trans hu
    exact hs.stands
  · cases h.symm.trans hu
    have ended : Stands s (s.setArray (endArrayOp s.array r)) := .of_eq rfl rfl rfl
    exact ended.trans hs.stands
  · exact absurd (hp.symm.trans hc) nofun

/-- Settles O59: each change of a step lets health and frozen limits stand (`Change.stands`). -/
theorem healthAndFrozenLimitsStandBetweenResets : Obligations.HealthAndFrozenLimitsStandBetweenResets := by
  intro c s t hpor hfall h
  have hc : Changes.isPowerReset c = false := by
    cases c with
    | powerOnReset => exact absurd rfl hpor
    | supplyFall => exact absurd rfl hfall
    | _ => rfl
  have stands := exec_stands hc h
  exact ⟨stands.health, fun hf hmfg hfield => (stands.limits hf (isLoading_eq_false.2 ⟨hmfg, hfield⟩)).2⟩

end Sys2Proof.Machine
end

section
/-! SUPPORT. The address translation unit: rising lists and tables as ordered lists, the slip walk, the home spare of a block, the lowest
FREE spare, and the rendering of a capture. -/

namespace Sys2Proof.Machine

/-! ## Rising lists and tables as ordered lists -/

theorem rising_cons {m : Nat} {l : List Nat} : rising (m :: l) = true ↔ (∀ n ∈ l, m < n) ∧ rising l = true := by
  induction l generalizing m with
  | nil => simp [rising]
  | cons n rest ih =>
    rw [rising, Bool.and_eq_true, decide_eq_true_eq, List.forall_mem_cons]
    refine ⟨fun ⟨hmn, hr⟩ => ⟨⟨hmn, fun k hk => ?_⟩, hr⟩, fun ⟨⟨hmn, _⟩, hr⟩ => ⟨hmn, hr⟩⟩
    exact hmn.trans ((ih.1 hr).1 k hk)

/-- The list rises when each number is below every later one. -/
theorem rising_iff_pairwise {l : List Nat} : rising l = true ↔ l.Pairwise (· < ·) := by
  induction l with
  | nil => simp [rising]
  | cons m rest ih => rw [rising_cons, ih, List.pairwise_cons]

theorem tableSorted_cons_iff {α : Type} {p : Nat × α} {t : List (Nat × α)} :
    tableSorted (p :: t) = true ↔ (∀ q ∈ t, p.1 < q.1) ∧ tableSorted t = true :=
  ⟨fun h => ⟨tableSorted_lt h, tableSorted_tail h⟩, fun ⟨hp, ht⟩ => tableSorted_cons ht hp⟩

/-- The table is sorted when its keys rise. -/
theorem tableSorted_iff_pairwise {α : Type} {t : List (Nat × α)} :
    tableSorted t = true ↔ (t.map fun e => e.1).Pairwise (· < ·) := by
  induction t with
  | nil => simp [tableSorted]
  | cons p rest ih => rw [tableSorted_cons_iff, ih, List.map_cons, List.pairwise_cons, List.forall_mem_map]

/-! ## The slip walk (R21) -/

/-- The walk ends off the list, at its start plus the number of listed blocks it has passed. -/
theorem slipWalk_spec {l : List Nat} (hl : rising l = true) (c : Nat) :
    slipWalk l c ∉ l ∧ slipWalk l c = c + (l.filter fun d => decide (d < slipWalk l c)).length := by
  induction l generalizing c with
  | nil => simp [slipWalk]
  | cons d rest ih =>
    obtain ⟨hd, hrest⟩ := rising_cons.1 hl
    unfold slipWalk
    split
    next hdc =>
      obtain ⟨hmem, heq⟩ := ih hrest (c + 1)
      have hpast : d < slipWalk rest (c + 1) := by omega
      refine ⟨by simp only [List.mem_cons, not_or]; exact ⟨by omega, hmem⟩, ?_⟩
      rw [List.filter_cons_of_pos (by simpa using hpast), List.length_cons]
      omega
    next hdc =>
      have hall : ∀ e ∈ d :: rest, c < e := List.forall_mem_cons.2 ⟨by omega, fun e he => by have := hd e he; omega⟩
      have hnone : (d :: rest).filter (fun e => decide (e < c)) = [] :=
        List.filter_eq_nil_iff.2 fun e he => by simpa using (hall e he).le
      exact ⟨fun hc => (hall c hc).ne rfl, by rw [hnone]; rfl⟩

/-- Listed numbers from `a` up to but not including `b` are at most as many as there are numbers. -/
theorem rising_length {l : List Nat} (hl : rising l = true) {a b : Nat} (hab : a ≤ b) (h : ∀ d ∈ l, a ≤ d ∧ d < b) :
    a + l.length ≤ b := by
  induction l generalizing a with
  | nil => exact hab
  | cons d rest ih =>
    obtain ⟨hd, hrest⟩ := rising_cons.1 hl
    obtain ⟨had, hdb⟩ := h d List.mem_cons_self
    have := ih hrest (a := d + 1) hdb fun e he => ⟨hd e he, (h e (List.mem_cons_of_mem d he)).2⟩
    rw [List.length_cons]
    omega

/-- A walk with no more room than the listed numbers below `m` take passes them all. -/
theorem slipWalk_end {l : List Nat} (hl : rising l = true) {c m : Nat} (hm : ∀ d ∈ l, d < m) (hc : c + l.length = m) :
    slipWalk l c = m := by
  induction l generalizing c with
  | nil => exact hc
  | cons d rest ih =>
    obtain ⟨hd, hrest⟩ := rising_cons.1 hl
    rw [List.length_cons] at hc
    unfold slipWalk
    split
    · exact ih hrest (fun e he => hm e (List.mem_cons_of_mem d he)) (by omega)
    next hdc =>
      have := rising_length hl (a := c + 1) (b := m) (by omega) fun e he =>
        ⟨by rcases List.mem_cons.1 he with rfl | he'; · omega
            · have := hd e he'; omega, hm e he⟩
      rw [List.length_cons] at this
      omega

theorem slipLocation_eq (x : Xlat) (block : Nat) : slipLocation x block = slipWalk x.defects (16 + block) := rfl

theorem le_slipWalk (l : List Nat) (c : Nat) : c ≤ slipWalk l c := by
  induction l generalizing c with
  | nil => exact Nat.le_refl c
  | cons d rest ih =>
    unfold slipWalk
    split
    · exact (Nat.le_succ c).trans (ih (c + 1))
    · exact Nat.le_refl c

/-- Of two walks the one that starts later ends later. -/
theorem slipWalk_lt {l : List Nat} {a b : Nat} (hab : a < b) : slipWalk l a < slipWalk l b := by
  induction l generalizing a b with
  | nil => exact hab
  | cons d rest ih =>
    unfold slipWalk
    split <;> split
    · exact ih (by omega)
    · omega
    · have := le_slipWalk rest (b + 1)
      omega
    · exact hab

/-- Different blocks have different slip locations. -/
theorem slipLocation_injective {x : Xlat} {a b : Nat} (h : slipLocation x a = slipLocation x b) : a = b := by
  simp only [slipLocation_eq] at h
  rcases Nat.lt_trichotomy a b with hab | hab | hab
  · exact absurd h (slipWalk_lt (by omega)).ne
  · exact hab
  · exact absurd h.symm (slipWalk_lt (by omega)).ne

/-- The slip location of a block of the part lies in the data region. -/
theorem slipLocation_le {x : Xlat} (hr : rising x.defects = true)
    (hnb : x.nb = 260080 - x.defects.length) {block : Nat} (hb : block < x.nb) : slipLocation x block ≤ 260095 := by
  have heq := (slipWalk_spec hr (16 + block)).2
  have hle := List.length_filter_le (fun d => decide (d < slipWalk x.defects (16 + block))) x.defects
  rw [slipLocation_eq]
  omega

/-- Settles O20: the walk's end by `slipWalk_spec`; for the last block it has passed every defect (`slipWalk_end`). -/
theorem slipLocationSkipsTheDefects : Obligations.SlipLocationSkipsTheDefects := by
  intro x block hr hd hnb hb
  obtain ⟨hmem, heq⟩ := slipWalk_spec hr (16 + block)
  have hle := List.length_filter_le (fun d => decide (d < slipWalk x.defects (16 + block))) x.defects
  refine ⟨hmem, heq, le_slipWalk _ _, ?_, slipLocation_le hr hnb hb, fun hlast hblock => ?_, fun y hy => ?_⟩
  · rw [slipLocation_eq]
    omega
  · refine slipWalk_end hr (fun d hm => ?_) (by simp only [Config.dataBase]; omega)
    have hne : d ≠ 260095 := fun h => hlast (h ▸ hm)
    have := (hd d hm).2
    omega
  · rw [slipLocation_eq, slipLocation_eq, hy]

/-! ## The home spare of a block (R20, R25) -/

/-- The spare that an entry gives its block as location. -/
def RemapEntry.home (e : RemapEntry) : Option Nat :=
  match e.state with
  | .inUse => some e.spare
  | .pending prior _ => prior

/-- The spare in which a block lies, if it lies in one. -/
def homeSpare (x : Xlat) (block : Nat) : Option Nat := (tableGet x.remap block).bind RemapEntry.home

/-- The spare that an entry holds (R25, R32) is the one that it gives as location. -/
theorem RemapEntry.holds_iff (e : RemapEntry) (i : Nat) : e.Holds i ↔ e.home = some i := by
  obtain ⟨spare, state⟩ := e
  cases state with
  | inUse => exact (Option.some_inj (a := spare)).symm
  | pending => exact Iff.rfl

theorem translate_of_home {x : Xlat} {a i : Nat} (h : homeSpare x a = some i) : translate x a = 260096 + i := by
  unfold translate
  cases hg : tableGet x.remap a with
  | none => rw [homeSpare, hg] at h; cases h
  | some e =>
    obtain ⟨spare, state⟩ := e
    rw [homeSpare, hg] at h
    cases state with
    | inUse => cases h; rfl
    | pending prior mark => cases (h : prior = some i); rfl

theorem translate_of_no_home {x : Xlat} {a : Nat} (h : homeSpare x a = none) : translate x a = slipLocation x a := by
  unfold translate
  cases hg : tableGet x.remap a with
  | none => rfl
  | some e =>
    obtain ⟨spare, state⟩ := e
    rw [homeSpare, hg] at h
    cases state with
    | inUse => cases h
    | pending prior mark => cases (h : prior = none); rfl

/-- Settles O21: a block lies in its home spare or at its slip location, and the two regions do not meet (`slipLocation_le`). -/
theorem translationIsInjective : Obligations.TranslationIsInjective := by
  intro x hr _ hnb home hshare
  have hhome (a : Nat) : home a = homeSpare x a := by
    simp only [home, homeSpare]
    cases tableGet x.remap a with
    | none => rfl
    | some e => obtain ⟨spare, _ | _⟩ := e <;> rfl
  simp only [hhome] at hshare ⊢
  refine ⟨fun a i => translate_of_home, fun a => translate_of_no_home, fun a b ha hb h => ?_⟩
  have hla := slipLocation_le hr hnb ha
  have hlb := slipLocation_le hr hnb hb
  cases hsa : homeSpare x a with
  | some i =>
    rw [translate_of_home hsa] at h
    cases hsb : homeSpare x b with
    | some j =>
      rw [translate_of_home hsb] at h
      cases (by omega : i = j)
      exact hshare a b i hsa hsb
    | none =>
      rw [translate_of_no_home hsb] at h
      omega
  | none =>
    rw [translate_of_no_home hsa] at h
    cases hsb : homeSpare x b with
    | some j =>
      rw [translate_of_home hsb] at h
      omega
    | none =>
      rw [translate_of_no_home hsb] at h
      exact slipLocation_injective h

/-! ## Allocation (R32) -/

/-- Below the lowest number that is not a key, every number from the start on is a key. -/
theorem tableGet_below_lowestAbsent {α : Type} {t : List (Nat × α)} {c j : Nat} (hc : c ≤ j) (hj : j < lowestAbsent t c) :
    ∃ a, tableGet t j = some a := by
  induction t generalizing c with
  | nil => exact absurd hj (by simp only [lowestAbsent]; omega)
  | cons p rest ih =>
    unfold lowestAbsent at hj
    unfold tableGet
    split at hj
    next hp =>
      split
      next => exact ⟨_, rfl⟩
      next hne => exact ih (by omega) hj
    · omega

/-- A listed spare has the state listed for it. -/
theorem spareState_of_mem {x : Xlat} (hs : tableSorted x.spares = true) {e : Nat × SpareState} (he : e ∈ x.spares) :
    spareState x e.1 = e.2 := by
  rw [spareState, tableGet_of_mem hs he]
  rfl

/-- Where no FREE spare is listed, the spares below the lowest one that is not listed are not FREE. -/
theorem spareState_below {x : Xlat} (hl : ∀ e ∈ x.spares, e.2 ≠ .free) {j : Nat} (hj : j < lowestAbsent x.spares 0) :
    spareState x j ≠ .free := by
  obtain ⟨a, ha⟩ := tableGet_below_lowestAbsent (Nat.zero_le j) hj
  rw [spareState, ha]
  exact hl _ (tableGet_mem ha)

/-- Settles O28: the lowest spare that is not listed is the FREE spare of lowest index. -/
theorem allocationTakesTheLowestFreeSpare : Obligations.AllocationTakesTheLowestFreeSpare := by
  intro x i hs hl
  have hfree : spareState x (lowestAbsent x.spares 0) = .free := by
    rw [spareState, (tableGet_lowestAbsent hs 0 fun _ _ => Nat.zero_le _).1]
    rfl
  constructor
  · intro h
    obtain ⟨hi, hf, hp⟩ := spareToAllocate_some hs h
    have hc : lowestAbsent x.spares 0 = i := by
      simp only [spareToAllocate] at h
      split at h
      · exact Option.some.inj h
      · cases h
    exact ⟨hi, hf, fun j hj => spareState_below hl (hc ▸ hj), hp⟩
  · rintro ⟨hi, hf, hlow, hp⟩
    have hc : lowestAbsent x.spares 0 = i := by
      rcases Nat.lt_trichotomy (lowestAbsent x.spares 0) i with h | h | h
      · exact absurd hfree (hlow _ h)
      · exact h
      · exact absurd hf (spareState_below hl h)
    have hnone : x.spares.all (fun e => e.2 != .pending) = true :=
      List.all_eq_true.2 fun e he => bne_iff_ne.2 fun h => hp e.1 ((spareState_of_mem hs he).trans h)
    simp only [spareToAllocate, hc]
    rw [if_pos ⟨hi, hnone⟩]

/-! ## Rendering (R31, Table 2-3) -/

/-- IN_USE entries are rendered as they are, carry no switch, and leave the spares. -/
theorem render_inUse {l : List (Nat × RemapEntry)} (h : ∀ e ∈ l, e.2.state = .inUse) :
    l.filterMap renderEntry = l.map (fun e => (e.1, e.2.spare)) ∧ ∀ spares, l.foldl renderSpares spares = spares := by
  induction l with
  | nil => exact ⟨rfl, fun _ => rfl⟩
  | cons e rest ih =>
    obtain ⟨he, hrest⟩ := List.forall_mem_cons.1 h
    obtain ⟨hremap, hspares⟩ := ih hrest
    refine ⟨?_, fun spares => ?_⟩
    · rw [List.filterMap_cons_some (b := (e.1, e.2.spare)) (by rw [renderEntry, he]), hremap, List.map_cons]
    · have hs : renderSpares spares e = spares := by rw [renderSpares, he]
      rw [List.foldl_cons, hs, hspares]

/-- A table whose one PENDING entry stands between IN_USE ones carries the switch of that entry, when it is marked. -/
theorem renderedSwitch_eq {x : Xlat} {before after : List (Nat × RemapEntry)} {block sp : Nat} {prior : Option Nat} {mark : Bool}
    (hx : x.remap = before ++ (block, ({ spare := sp, state := .pending prior mark } : RemapEntry)) :: after)
    (hb : ∀ e ∈ before, e.2.state = .inUse) (ha : ∀ e ∈ after, e.2.state = .inUse) :
    renderedSwitch x = if mark then some block else none := by
  unfold renderedSwitch
  rw [hx, List.find?_append, List.find?_eq_none.2 fun e he => by simp [hb e he], Option.none_or]
  cases mark with
  | true => rfl
  | false =>
    rw [List.find?_cons_of_neg (by simp), List.find?_eq_none.2 fun e he => by simp [ha e he]]
    rfl

/-- Settles O32: the entries around the PENDING one are rendered as they are (`render_inUse`), so that only that entry counts. -/
theorem renderingOfThePendingEntry : Obligations.RenderingOfThePendingEntry := by
  intro x before after block sp prior mark hx h plain
  obtain ⟨hb, ha⟩ := List.forall_mem_append.1 h
  obtain ⟨hremapB, hsparesB⟩ := render_inUse hb
  obtain ⟨hremapA, hsparesA⟩ := render_inUse ha
  refine ⟨?_, fun i => ?_, renderedSwitch_eq hx hb ha⟩
  · rw [renderedRemap, hx, List.filterMap_append, List.filterMap_cons, hremapB, hremapA]
    cases mark <;> cases prior <;> simp [renderEntry, plain]
  · have hspares : renderedSpares x =
        renderSpares x.spares (block, { spare := sp, state := .pending prior mark }) := by
      rw [renderedSpares, hx, List.foldl_append, List.foldl_cons, hsparesB, hsparesA]
    rw [hspares]
    cases mark with
    | false =>
      simp only [renderSpares, tableGet_tableErase, Bool.false_eq_true, if_false, spareState]
      split <;> rfl
    | true =>
      cases prior with
      | none =>
        simp only [renderSpares, tableGet_tableSet, if_true, spareState, reduceCtorEq, if_false]
        split <;> rfl
      | some t =>
        simp only [renderSpares, tableGet_tableSet, if_true, spareState, Option.some_inj, eq_comm (a := t)]
        split
        · rfl
        · split <;> rfl

end Sys2Proof.Machine
end

section
/-! SUPPORT. What a command does before its block acts: the delivered answer or the hand-over is taken; and operations that several blocks
share, each under the condition in which it has its full effect. -/

namespace Sys2Proof.Machine

/-- A delivered answer leaves the list, its requester acts, and the arbiter chooses (R9, R11). -/
theorem deliver_eq {s : State} {c : Instr} {d : Delivery} (h : s.deliveredFor c = some d) (take : State → Delivered → State) :
    s.deliver c take = (take (s.withoutDelivery d c) d.answer).arbitrate := by
  simp only [State.deliver, h]
  rfl

/-- Outside a power-on reset a hand-over leaves the list and its block acts (log 1). -/
theorem handOver_eq {s : State} (h : s.inReset = false) (c : Instr) (take : State → State) :
    s.handOver c take = take (s.without c) := by
  have hu : (s.unpost c).inReset = false := h
  simp only [State.handOver, State.whenUp, hu, Bool.false_eq_true, if_false]
  rfl

/-- Before FAILED a counter is raised (R160). -/
theorem count_running {s : State} (h : s.health.state ≠ .failed) (f : Counters → Counters) :
    s.count f = s.setHealth { s.health with counters := f s.health.counters } := by
  rw [State.count, if_neg h]

theorem relocStopped_eq_true {s : State} : s.relocStopped = true ↔ s.reloc.failed = true ∨ s.health.state = .failed := by
  simp [State.relocStopped]

theorem relocStopped_eq_false {s : State} : s.relocStopped = false ↔ s.reloc.failed = false ∧ s.health.state ≠ .failed := by
  simp [State.relocStopped]

/-! ## Offers that do not depend on responses, the event log and the link -/

@[simp] theorem choice_respond (s : State) (r : Response) : (s.respond r).choice = s.choice := by
  have offers : (s.respond r).offers = s.offers := funext fun q => by cases q <;> rfl
  simp only [State.choice, offers]
  rfl

@[simp] theorem choice_append (s : State) (b : EventBody) : (s.append b).choice = s.choice := by
  have offers : (s.append b).offers = s.offers := funext fun q => by cases q <;> rfl
  simp only [State.choice, offers]
  rfl

theorem State.Rests.respond {s : State} (h : s.Rests) (r : Response) : (s.respond r).Rests :=
  h.imp_right (choice_respond s r).trans

theorem State.Rests.append {s : State} (h : s.Rests) (b : EventBody) : (s.append b).Rests :=
  h.imp_right (choice_append s b).trans

theorem State.Rests.protocolError {s : State} (h : s.Rests) (answer : Response) (block : Option Nat) (kind status tag : Nat) :
    (s.protocolError answer block kind status tag).Rests := (h.respond answer).append _

end Sys2Proof.Machine
end

section
/-! SUPPORT. The requests that a check turns away (R18, R71, R72). -/

namespace Sys2Proof.Machine

/-! ## The checks -/

theorem arrivalCheck_failed {s : State} (h : s.health.state = .failed) (addr : Nat) : s.arrivalCheck addr = .healthFailed := by
  rw [State.arrivalCheck, if_pos h]

theorem arrivalCheck_outOfRange {s : State} {addr : Nat} (h : s.health.state ≠ .failed)
    (ha : s.xlat.nb * 64 ≤ addr ∨ s.xlat.el ≤ addr / 64) : s.arrivalCheck addr = .outOfRange := by
  rw [State.arrivalCheck, if_neg h]
  exact if_pos ha

theorem arrivalCheck_lost {s : State} {addr : Nat} (h : s.health.state ≠ .failed) (hn : addr < s.xlat.nb * 64)
    (he : addr / 64 < s.xlat.el) (hl : addr / 64 ∈ s.xlat.lost) : s.arrivalCheck addr = .lost := by
  have hr : ¬ (s.xlat.nb * Config.linesPerBlock ≤ addr ∨ s.xlat.el ≤ blockOf addr) :=
    not_or.2 ⟨Nat.not_le.2 hn, Nat.not_le.2 he⟩
  rw [State.arrivalCheck, if_neg h, if_neg hr]
  exact if_pos ((isLost_iff _ _).2 hl)

/-! ## The answers -/

/-- The status of a READ that an arrival check turns away (Table 2-1); an admitted one has none of its own here. -/
def readRefusal : Arrival → ReadStatus
  | .outOfRange => .range
  | .healthFailed | .lost | .admitted => .poison

/-- The status of a WRITE that an arrival check turns away (Table 2-1); an admitted one has none of its own here. -/
def writeRefusal : Arrival → WriteStatus
  | .outOfRange => .range
  | .healthFailed | .lost | .admitted => .mediaFail

section
variable {s : State} {tag addr : Nat}

theorem takeRead_tagError (ho : (tableGet s.host.readTags tag).isSome = true) :
    s.takeRead tag addr = s.protocolError (.readResult tag .tagError) (protocolBlock s.xlat addr) 0 2 tag :=
  if_pos ho

theorem takeRead_refused (ho : tableGet s.host.readTags tag = none) {a : Arrival} (ha : s.arrivalCheck addr = a) (hr : a ≠ .admitted) :
    s.takeRead tag addr = s.respond (.readResult tag (readRefusal a)) := by
  have hout : ¬ outstanding s.host.readTags tag = true := by simp [outstanding, ho]
  rw [State.takeRead, if_neg hout, ha]
  cases a with
  | admitted => exact absurd rfl hr
  | healthFailed | outOfRange | lost => rfl

theorem takeWrite_malformed (data : Line) :
    s.takeWrite tag addr data 0 = s.protocolError (.writeAck tag .malformed) (protocolBlock s.xlat addr) 1 1 tag :=
  if_pos rfl

theorem takeWrite_tagError (data : Line) {mask : Mask} (hm : mask ≠ 0) (ho : (tableGet s.host.writeTags tag).isSome = true) :
    s.takeWrite tag addr data mask = s.protocolError (.writeAck tag .tagError) (protocolBlock s.xlat addr) 1 2 tag := by
  rw [State.takeWrite, if_neg hm]
  exact if_pos ho

theorem takeWrite_refused (data : Line) {mask : Mask} (hm : mask ≠ 0) (ho : tableGet s.host.writeTags tag = none) {a : Arrival}
    (ha : s.arrivalCheck addr = a) (hr : a ≠ .admitted) :
    s.takeWrite tag addr data mask = s.respond (.writeAck tag (writeRefusal a)) := by
  have hout : ¬ outstanding s.host.writeTags tag = true := by simp [outstanding, ho]
  rw [State.takeWrite, if_neg hm, if_neg hout, ha]
  cases a with
  | admitted => exact absurd rfl hr
  | healthFailed | outOfRange | lost => rfl

theorem takeBarrier_tagError (ho : (tableGet s.host.barrierTags tag).isSome = true) :
    s.takeBarrier tag = s.protocolError (.barrierDone tag .tagError) none 2 2 tag :=
  if_pos ho

theorem takeBarrier_failed (ho : tableGet s.host.barrierTags tag = none) (h : s.health.state = .failed) :
    s.takeBarrier tag = s.respond (.barrierDone tag .fail) := by
  have hout : ¬ outstanding s.host.barrierTags tag = true := by simp [outstanding, ho]
  rw [State.takeBarrier, if_neg hout, if_pos h]

end

/-! ## The commands -/

section
variable {s t : State} (hq : s.Quiet) (hs : s.TakesRequests)
include hq hs

/-- A READ that is answered at once, leaving the arbiter at rest. -/
theorem exec_read_answered {tag : Fin 32} {addr : Nat} (h : s.takeRead tag.val addr = t) (ht : t.Rests) :
    exec (.read tag addr) s = .next t := by
  have htake : s.canTake (.read tag.val addr) = true := by simp [State.canTake, hs.1, hs.2, Config.responseRoom]
  show Host.Outcome.next (s.present (.read tag.val addr)) = _
  rw [present_quiet _ hq htake]
  exact congrArg Host.Outcome.next ((congrArg State.arbitrate h).trans (arbitrate_of_rests ht))

/-- A WRITE that is answered at once, leaving the arbiter at rest. -/
theorem exec_write_answered {tag : Fin 32} {addr : Nat} {data : Line} {mask : Mask} (ho : occupancy s.staging < 64)
    (h : s.takeWrite tag.val addr data mask = t) (ht : t.Rests) : exec (.write tag addr data mask) s = .next t := by
  have htake : s.canTake (.write tag.val addr data mask) = true := by
    simp [State.canTake, hs.1, hs.2, ho, Config.responseRoom, Config.stagingEntries]
  show Host.Outcome.next (s.present (.write tag.val addr data mask)) = _
  rw [present_quiet _ hq htake]
  exact congrArg Host.Outcome.next ((congrArg State.arbitrate h).trans (arbitrate_of_rests ht))

/-- A BARRIER that is answered at once, leaving the arbiter at rest. -/
theorem exec_barrier_answered {tag : Fin 8} (ho : s.staging.hostSlots.length < 4) (h : s.takeBarrier tag.val = t) (ht : t.Rests) :
    exec (.barrier tag) s = .next t := by
  have htake : s.canTake (.barrier tag.val) = true := by
    simp [State.canTake, hs.1, hs.2, ho, Config.responseRoom, Config.hostBarrierSlots]
  show Host.Outcome.next (s.present (.barrier tag.val)) = _
  rw [present_quiet _ hq htake]
  exact congrArg Host.Outcome.next ((congrArg State.arbitrate h).trans (arbitrate_of_rests ht))

end

/-- Settles O10: each check's answer leaves the arbiter at rest, so that nothing follows it. -/
theorem refusedRequestsAreAnsweredAtOnce : Obligations.RefusedRequestsAreAnsweredAtOnce := by
  intro s hq hs answer error named
  refine ⟨fun tag addr ho => (exec_read_answered hq hs (takeRead_tagError ho) (hq.1.protocolError _ _ _ _ _) :),
    fun tag addr ho => ?read, fun tag addr data mask hroom => ⟨?malformed, ?tag, fun hm ho => ?write⟩, fun tag hroom => ⟨?_, ?_⟩⟩
  case read =>
    have refused {a : Arrival} (ha : s.arrivalCheck addr = a) (hr : a ≠ .admitted) :=
      exec_read_answered hq hs (takeRead_refused ho ha hr) (hq.1.respond _)
    exact ⟨fun h => refused (arrivalCheck_failed h addr) nofun, fun h ha => refused (arrivalCheck_outOfRange h ha) nofun,
      fun h hn he hl => refused (arrivalCheck_lost h hn he hl) nofun⟩
  case malformed =>
    rintro rfl
    exact (exec_write_answered hq hs hroom (takeWrite_malformed data) (hq.1.protocolError _ _ _ _ _) :)
  case tag =>
    exact fun hm ho => (exec_write_answered hq hs hroom (takeWrite_tagError data hm ho) (hq.1.protocolError _ _ _ _ _) :)
  case write =>
    have refused {a : Arrival} (ha : s.arrivalCheck addr = a) (hr : a ≠ .admitted) :=
      exec_write_answered hq hs hroom (takeWrite_refused data hm ho ha hr) (hq.1.respond _)
    exact ⟨fun h => refused (arrivalCheck_failed h addr) nofun, fun h ha => refused (arrivalCheck_outOfRange h ha) nofun,
      fun h hn he hl => refused (arrivalCheck_lost h hn he hl) nofun⟩
  · exact fun ho => (exec_barrier_answered hq hs hroom (takeBarrier_tagError ho) (hq.1.protocolError _ _ _ _ _) :)
  · exact fun ho h => exec_barrier_answered hq hs hroom (takeBarrier_failed ho h) (hq.1.respond _)

end Sys2Proof.Machine
end

section
/-! SUPPORT. A frame that passes the checks of Table 10-1, and the limit commands (R180, R181). -/

namespace Sys2Proof.Machine

/-- A frame that is no retry and passes the checks of Table 10-1 is answered by its command's own rule (R170, R171). -/
theorem takeFrame_checked {s : State} {seq : Byte} (hs : s.Hears seq) (hf : s.health.state ≠ .failed) {c : MgmtCode}
    {params : List Byte} (hlen : params.length = paramLength c) (hlong : s.pendingLong = none ∨ waitsOnLong c = false)
    (body : State → Reply) : s.takeFrame c seq params body = (body s).finish seq := by
  obtain ⟨hup, hseq, hmfg, hfield⟩ := hs
  have hload : s.loader.isLoading = false := isLoading_eq_false.2 ⟨hmfg, hfield⟩
  have hbusy : ¬ (s.pendingLong.isSome = true ∧ waitsOnLong c = true) := by
    rintro ⟨hp, hw⟩
    rcases hlong with h | h
    · rw [h] at hp; cases hp
    · exact absurd (hw.symm.trans h) nofun
  have hcheck : s.checkFrame c params = none := by
    rw [State.checkFrame, if_neg (not_not.2 hlen), if_neg (by simp [hload]), if_neg (by simp [hf]), if_neg hbusy]
  simp only [State.takeFrame, State.receive, State.whenUp, hup, Bool.false_eq_true, if_false, if_neg hseq, State.checked, hcheck]

theorem finish_refuse (s : State) (status : FrameStatus) (seq : Byte) :
    (s.refuse status).finish seq = s.answered seq status [] := rfl

section
variable {s : State} {seq : Byte} (hs : s.Hears seq) (hf : s.health.state ≠ .failed)
include hs hf

theorem exec_freezeLimit : exec (.freezeLimit seq []) s =
    .next (((s.setXlat { s.xlat with frozen := true }).inform []).finish seq) :=
  congrArg Host.Outcome.next (takeFrame_checked (c := .freezeLimit) hs hf rfl (.inr rfl) _)

theorem exec_setLimit (hp : s.pendingLong = none) (a b c flag : Byte) :
    exec (.setLimit seq [a, b, c, flag]) s = .next ((s.setLimit seq [a, b, c, flag]).finish seq) :=
  congrArg Host.Outcome.next (takeFrame_checked (c := .setLimit) hs hf rfl (.inl hp) _)

end

/-- The count that a SET_LIMIT frame carries in its first three bytes. -/
theorem setLimit_count (a b c flag : Byte) :
    paramNat [a, b, c, flag] 0 3 = a.toNat + 256 * b.toNat + 65536 * c.toNat := by
  simp only [paramNat, List.drop_zero, List.take_succ_cons, List.take_zero, leNat]
  omega

/-! ## The cases of SET_LIMIT (R180) -/

section
variable {s : State} {seq : Byte} {params : List Byte}

theorem setLimit_frozen (h : s.xlat.frozen = true) : s.setLimit seq params = s.refuse .frozen := by
  simp only [State.setLimit, h, if_true]

variable (h : s.xlat.frozen = false)
include h

theorem setLimit_badParam (hb : 1 < paramByte params 3 ∨ paramNat params 0 3 = 0 ∨ s.xlat.nb < paramNat params 0 3) :
    s.setLimit seq params = s.refuse .badParam := by
  simp only [State.setLimit, h, Bool.false_eq_true, if_false, if_pos hb]

variable (hv : 1 ≤ paramNat params 0 3 ∧ paramNat params 0 3 ≤ s.xlat.nb)
include hv

theorem setLimit_volatile (hflag : paramByte params 3 = 0) : s.setLimit seq params =
    ((s.setXlat { s.xlat with el := paramNat params 0 3 }).append
      { kind := .limitChanged, value := paramNat params 0 3 }).inform [] := by
  have hok : ¬ (1 < 0 ∨ paramNat params 0 3 = 0 ∨ s.xlat.nb < paramNat params 0 3) := by omega
  simp only [State.setLimit, h, Bool.false_eq_true, if_false, if_neg hok, hflag, if_true, Nat.zero_ne_one]

theorem setLimit_persistent (hflag : paramByte params 3 = 1) : s.setLimit seq params =
    { state := (((s.setXlat { s.xlat with el := paramNat params 0 3, elp := paramNat params 0 3 }).append
        { kind := .limitChanged, value := paramNat params 0 3 }).acceptLong .setLimit seq).post (.commitRequest .link)
      status := .pending
      payload := [] } := by
  have hok : ¬ (1 < 1 ∨ paramNat params 0 3 = 0 ∨ s.xlat.nb < paramNat params 0 3) := by omega
  simp only [State.setLimit, h, Bool.false_eq_true, if_false, if_neg hok, hflag, if_true, Nat.one_ne_zero]

end

/-- Settles O52: both frames pass the checks of Table 10-1, and SET_LIMIT has the four cases above. -/
theorem setLimitAndFreezeLimit : Obligations.SetLimitAndFreezeLimit := by
  intro s seq hs hf
  refine ⟨exec_freezeLimit hs hf, ?_⟩
  intro hp a b c flag v
  have hcount : paramNat [a, b, c, flag] 0 3 = v := setLimit_count a b c flag
  simp only [exec_setLimit hs hf hp]
  refine ⟨fun h => ?_, fun h hb => ?_, fun h hlow hhigh => ⟨fun hflag => ?_, fun hflag => ?_⟩⟩
  · rw [setLimit_frozen h, finish_refuse]
  · rw [setLimit_badParam h (by rw [hcount]; exact hb), finish_refuse]
  · subst hflag
    rw [setLimit_volatile h (by rw [hcount]; exact ⟨hlow, hhigh⟩) rfl, hcount]
    rfl
  · subst hflag
    rw [setLimit_persistent h (by rw [hcount]; exact ⟨hlow, hhigh⟩) rfl, hcount]
    rfl

end Sys2Proof.Machine
end

section
/-! SUPPORT. The result of start-up and the image it loads (R142, R144). -/

namespace Sys2Proof.Machine

/-- A health report changes the health block, the event log and the list of hand-overs (R156, R157). -/
theorem reportHealth_eq (s : State) (i : HealthInput) : s.reportHealth i = { s with
    health := (s.reportHealth i).health, log := (s.reportHealth i).log, posted := (s.reportHealth i).posted } := by
  simp only [State.reportHealth]
  split
  · rfl
  · split <;> rfl

section
variable (s : State) (i : HealthInput)
theorem reportHealth_pins : (s.reportHealth i).pins = s.pins := by rw [reportHealth_eq]
theorem reportHealth_host : (s.reportHealth i).host = s.host := by rw [reportHealth_eq]
theorem reportHealth_loader : (s.reportHealth i).loader = s.loader := by rw [reportHealth_eq]
theorem reportHealth_patrol : (s.reportHealth i).patrol = s.patrol := by rw [reportHealth_eq]
end

@[simp] theorem startTimer_host (s : State) : s.startTimer.host = s.host := by
  unfold State.startTimer
  split <;> rfl

theorem openPort_channel {s : State} (hc : s.host.channel = []) : s.openPort.host.channel = [] := by
  unfold State.openPort
  split
  · rfl
  · exact hc

/-- The patrol scanner is RUNNING before FAILED, after a start-up that ended READY, enabled and set to RUN (Table 8-1). -/
theorem patrolState_running_iff (s : State) : s.patrolState = .running ↔
    s.health.state ≠ .failed ∧ s.loader.state = .ready ∧ s.patrol.enable = true ∧ s.patrol.control = .run := by
  unfold State.patrolState Loader.isLoading
  cases s.loader.state <;> by_cases hf : s.health.state = .failed <;> simp [hf]

/-- The end of start-up at a port without a request waiting (R144, R147). -/
theorem enterResult_eq {s : State} (hc : s.host.channel = []) (failed : Bool) :
    let told := State.reportHealth { s with
        loader := { s.loader with state := if failed then .failed else .ready, readOut := false } }
      (.startup failed s.xlat.freeSpares s.xlat.lost.length s.commit.copyA s.commit.copyB)
    s.enterResult failed = told.openPort.startTimer.arbitrate ∧ told.host = s.host ∧ told.pins = s.pins ∧
      told.patrol = s.patrol ∧ told.loader.state = if failed then .failed else .ready := by
  intro told
  refine ⟨settle_no_channel ?_, reportHealth_host _ _, reportHealth_pins _ _, reportHealth_patrol _ _,
    congrArg Loader.state (reportHealth_loader _ _)⟩
  rw [startTimer_host]
  exact openPort_channel ((congrArg HostPort.channel (reportHealth_host _ _)).trans hc)

/-- Loading an image sets the values of Table 7-1 at their owners, and start-up ends READY (R142). -/
theorem loadImage_eq (s : State) (copy : CopyId) (i : FieldImage) :
    let loaded := State.setCommit (s.loadValues i (loadedLimit s.xlat.nb i.elp)) { s.commit with
      copyA := if copy = .a then .ok else i.otherCopy
      copyB := if copy = .b then .ok else i.otherCopy
      newestSeq := i.sequence, lastSeq := i.sequence, holder := some copy, writing := none, followUp := false,
      config := i.config }
    s.loadImage copy i = State.enterResult { loaded with
      log := if loadedLimit s.xlat.nb i.elp = i.elp then s.log
        else appendRecord s.log { kind := .limitChanged, value := loadedLimit s.xlat.nb i.elp } } false := by
  intro loaded
  simp only [State.loadImage]
  split <;> cases copy <;> rfl

/-- Settles O35: the loaded image by `loadImage_eq`, the end of start-up by `enterResult_eq`. -/
theorem chosenImageIsLoadedAndOpensThePart : Obligations.ChosenImageIsLoadedAndOpensThePart := by
  refine ⟨loadImage_eq, ?_⟩
  intro s failed hc ended told opened
  obtain ⟨hres, hhost, hpins, hpatrol, hstate⟩ :
      s.enterResult failed = told.openPort.startTimer.arbitrate ∧ told.host = s.host ∧ told.pins = s.pins ∧
        told.patrol = s.patrol ∧ told.loader.state = if failed then .failed else .ready := enterResult_eq hc failed
  have hopen : told.openPort = opened := by
    have hlink : told.pins.linkReset = s.pins.linkReset := congrArg Pins.linkReset hpins
    simp only [State.openPort, hlink, hhost, opened]
    split <;> rfl
  have hrun : opened.patrolState = .running ↔
      told.health.state ≠ .failed ∧ failed = false ∧ s.patrol.enable = true ∧ s.patrol.control = .run := by
    have hloader : opened.loader.state = if failed then .failed else .ready := hstate
    have hready : opened.loader.state = .ready ↔ failed = false := by rw [hloader]; cases failed <;> simp
    have hscan : opened.patrol = s.patrol := hpatrol
    rw [patrolState_running_iff, hready, hscan]
  have htimer : opened.startTimer = if opened.patrolState = .running then
      { opened with patrol := { s.patrol with timer := some s.patrol.interval } } else opened := by
    have hscan : opened.patrol = s.patrol := hpatrol
    rw [State.startTimer, hscan]
    rfl
  rw [hres, hopen, htimer]
  simp only [hrun]

end Sys2Proof.Machine
end

section
/-! SUPPORT. The relocation engine: abandonment, taking the head, and the answers of its programs (R109 to R119). -/

namespace Sys2Proof.Machine

/-! ## Entries that lost their source (R43) -/

theorem hasSrcFailed_eq (st : Staging) (block : Nat) :
    hasSrcFailed st block = decide (∃ e ∈ st.entries, e.line / 64 = block ∧ e.hold = .srcFailed) := by
  rw [Bool.eq_iff_iff, decide_eq_true_iff, hasSrcFailed, List.any_eq_true]
  simp only [Bool.and_eq_true, decide_eq_true_eq]
  rfl

/-- The relocation's source is lost: its record says so, or an entry of its block does (R117). -/
theorem srcFailed_iff (st : Staging) (x : RelocRecord) : (x.srcFailed || hasSrcFailed st x.block) = true ↔
    x.srcFailed = true ∨ ∃ e ∈ st.entries, e.line / 64 = x.block ∧ e.hold = .srcFailed := by
  rw [Bool.or_eq_true, hasSrcFailed_eq, decide_eq_true_iff]

/-! ## Abandonment (R117 to R119) -/

/-- Without src_failed the holds go, a management command ends ABANDONED, and the engine returns to IDLE (R118). -/
theorem abandon_keeping {s : State} {x : RelocRecord} (h : (x.srcFailed || hasSrcFailed s.staging x.block) = false) (reason : Nat) :
    s.abandon x reason = State.callEngine { s with
      xlat := dropPending s.xlat x.block
      log := appendRecord s.log { kind := .relocAbandoned, block := some x.block, cause := some x.cause, value := reason }
      staging := abandonHolds s.staging x.block
      posted := if x.byManagement then s.posted ++ [.longCommandEnding .relocateBlock .abandoned 0] else s.posted
      reloc := { s.reloc with engine := .idle, record := none, stepOut := false } } := by
  simp only [State.abandon, h, Bool.false_eq_true, if_false, State.engineIdle, State.endRelocate]
  split <;> rfl

/-- With src_failed the engine waits for the commit of the addition that it asks for (R119). -/
theorem abandon_giving {s : State} {x : RelocRecord} (h : (x.srcFailed || hasSrcFailed s.staging x.block) = true) (reason : Nat) :
    s.abandon x reason = State.addLost { s with
      xlat := dropPending s.xlat x.block
      log := appendRecord s.log { kind := .relocAbandoned, block := some x.block, cause := some x.cause, value := reason }
      staging := { s.staging with migrating := none }
      reloc := { s.reloc with
        engine := .commitWait
        stepOut := false
        record := some { x with spare := none, buffer := none, srcFailed := true, purpose := some .lost } } } x.block .engine := by
  simp only [State.abandon, h, if_true]
  rfl

/-- Settles O29: the two ends of an abandonment, by whether the source is lost (`srcFailed_iff`). -/
theorem abandonmentKeepsOrGivesUpTheBlock : Obligations.AbandonmentKeepsOrGivesUpTheBlock := by
  intro s x reason logged failed
  refine ⟨fun h => ?_, fun h => abandon_giving ((srcFailed_iff _ _).2 h) reason⟩
  have hsrc : (x.srcFailed || hasSrcFailed s.staging x.block) = false :=
    Bool.eq_false_iff.2 (mt (srcFailed_iff _ _).1 h)
  rw [abandon_keeping hsrc]
  rfl

/-! ## Taking the head (R109, R110) -/

theorem queueHead_of_class {r left : Reloc} {e : QueueEntry}
    (h : (∃ u, r.urgent = e :: u ∧ left = { r with urgent := u }) ∨
      (r.urgent = [] ∧ ∃ n, r.normal = e :: n ∧ left = { r with normal := n })) :
    queueHead r = some e ∧ dropHead r = left := by
  obtain ⟨u, hu, rfl⟩ | ⟨hu, n, hn, rfl⟩ := h
  · simp only [queueHead, dropHead, hu, and_self]
  · simp only [queueHead, dropHead, hu, hn, List.head?_cons, List.drop_succ_cons, List.drop_zero, and_self]

/-- An engine that is not IDLE or is stopped, and one without a waiting entry, takes nothing (R109, R123). -/
theorem takeHead_nothing {s : State} (h : s.reloc.engine ≠ .idle ∨ s.relocStopped = true ∨ queueHead s.reloc = none) :
    s.takeHead = s := by
  unfold State.takeHead
  split
  next hc =>
    obtain ⟨hidle, hrun⟩ := hc
    rcases h with h | h | h
    · exact absurd hidle h
    · exact absurd (h.symm.trans hrun) nofun
    · rw [h]
  next => rfl

section
variable {s : State} {e : QueueEntry} (hidle : s.reloc.engine = .idle) (hrun : s.relocStopped = false)
  (he : queueHead s.reloc = some e)
include hidle hrun he

theorem takeHead_prepares {i : Nat} (hi : spareToAllocate s.xlat = some i) : s.takeHead =
    ((s.setReloc (dropHead s.reloc)).prepare (newRecord e (hasSrcFailed s.staging e.block)) i).settle := by
  rw [State.takeHead, if_pos ⟨hidle, hrun⟩, he]
  simp only [hi]

theorem takeHead_abandons (hi : spareToAllocate s.xlat = none) : s.takeHead =
    (State.abandon (s.setReloc { dropHead s.reloc with record := some (newRecord e (hasSrcFailed s.staging e.block)) })
      (newRecord e (hasSrcFailed s.staging e.block)) 1).settle := by
  rw [State.takeHead, if_pos ⟨hidle, hrun⟩, he]
  simp only [hi]
  rfl

end

/-- The engine enters PREPARE exactly when a program of the block is in progress (R110, log 38). -/
theorem prepare_waits_iff (st : Staging) (block : Nat) :
    (st.entries.any fun e => decide (e.block = block) && programming st e) = true ↔
      ∃ f ∈ st.entries, f.line / 64 = block ∧ f.state = .issued ∧ st.drainOp = some { order := f.order, kind := .program } := by
  rw [List.any_eq_true]
  simp only [programming, Bool.and_eq_true, decide_eq_true_eq]
  rfl

/-- What the preparation of a relocation makes of each part (R110, R26, R54). -/
theorem prepare_eq (s : State) (x : RelocRecord) (i : Nat) : s.prepare x i = { s with
    xlat := { s.xlat with
      spares := tableSet s.xlat.spares i .pending
      remap := tableSet s.xlat.remap x.block
        { spare := i, state := .pending ((tableGet s.xlat.remap x.block).map fun r => r.spare) false } }
    staging := markMigrating s.staging x.block
    reloc := { s.reloc with
      engine := if s.staging.entries.any fun e => decide (e.block = x.block) && programming s.staging e then .prepare else .copy
      record := some { x with source := some (relocSource s.xlat x.block), spare := some i } }
    posted := s.posted ++ [.healthReport (.freeSpares (2048 - (tableSet s.xlat.spares i .pending).length))] } := rfl

/-- Settles O39: the head and its class by `queueHead_of_class`, the parts after the preparation by `prepare_eq`. -/
theorem engineTakesTheHeadAndPrepares : Obligations.EngineTakesTheHeadAndPrepares := by
  intro s hup s0
  have hexec : exec .engineTakeHead s = .next s0.takeHead := congrArg Host.Outcome.next (handOver_eq hup _ _)
  rw [hexec]
  refine ⟨fun h => congrArg Host.Outcome.next (takeHead_nothing ?_), ?_⟩
  · rcases h with h | h | h | ⟨hu, hn⟩
    · exact .inl h
    · exact .inr (.inl (relocStopped_eq_true.2 (.inr h)))
    · exact .inr (.inl (relocStopped_eq_true.2 (.inl h)))
    · exact .inr (.inr (by simp only [queueHead, s0, State.without, hu, hn, List.head?_nil]))
  · intro e left hidle hhealth hnotice hc hqueue held taken programs
    have hrun : s0.relocStopped = false := relocStopped_eq_false.2 ⟨hnotice, hhealth⟩
    obtain ⟨hhead, hleft⟩ := queueHead_of_class hqueue
    have hrecord : newRecord e (hasSrcFailed s0.staging e.block) = taken := by
      rw [hasSrcFailed_eq]
      rfl
    refine ⟨fun i hi => ?_, fun hi => ?_⟩
    · refine ⟨if s.staging.entries.any fun f => decide (f.block = e.block) && programming s.staging f then .prepare else .copy,
        ?_, ?_, ?_⟩
      · rw [← prepare_waits_iff]
        split <;> simp [*]
      · split <;> simp
      · have hsettle := settle_no_channel (s := (s0.setReloc (dropHead s0.reloc)).prepare taken i) hc
        rw [takeHead_prepares (s := s0) hidle hrun hhead hi, hrecord, hsettle, prepare_eq]
        subst hleft
        rfl
    · rw [takeHead_abandons (s := s0) hidle hrun hhead hi, hrecord]
      subst hleft
      rfl

end Sys2Proof.Machine
end

section
/-! SUPPORT. The answer of a spare program, and what a failure of the spare does to the tables (R113 to R115, R27, R28, R33). -/

namespace Sys2Proof.Machine

/-! ## The tables -/

/-- A spare retires (R33). -/
theorem retireSpare_running {s : State} (h : s.health.state ≠ .failed) (i block : Nat) : s.retireSpare i block = { s with
    xlat := { s.xlat with spares := tableSet s.xlat.spares i .retired }
    health := { s.health with counters := countRetired s.health.counters }
    log := appendRecord s.log
      { kind := .spareRetired, block := some block, spare := some i, value := (countRetired s.health.counters).sparesRetired } } := by
  have hcount := count_running (s := s.setXlat { s.xlat with spares := tableSet s.xlat.spares i .retired }) h countRetired
  simp only [State.retireSpare, hcount]
  rfl

/-- A copy complete mark is set in a PENDING entry (R28). -/
theorem markCopied_pending {x : Xlat} {block sp : Nat} {prior : Option Nat} {mark : Bool}
    (h : tableGet x.remap block = some { spare := sp, state := .pending prior mark }) :
    markCopied x block = { x with remap := tableSet x.remap block { spare := sp, state := .pending prior true } } := by
  simp only [markCopied, h]

/-- A complete copy: its entry is marked, and the engine waits for the commit that it asks for (R113, R28). -/
theorem copyComplete_eq {s : State} {x : RelocRecord} {sp : Nat} {prior : Option Nat} {mark : Bool}
    (h : tableGet s.xlat.remap x.block = some { spare := sp, state := .pending prior mark }) : s.copyComplete x = { s with
      xlat := { s.xlat with remap := tableSet s.xlat.remap x.block { spare := sp, state := .pending prior true } }
      reloc := { s.reloc with engine := .commitWait, record := some { x with buffer := none, purpose := some .switch } }
      posted := s.posted ++ [.commitRequest .engine] } := by
  rw [State.copyComplete, markCopied_pending h]
  rfl

section
variable {s : State} {block failed : Nat}

/-- A spare failure with a retry and a FREE spare: that spare takes the place of the failed one (R27). -/
theorem spareFailed_retry {u : Nat} {e : RemapEntry}
    (hu : spareToAllocate (s.retireSpare failed block).xlat = some u)
    (he : tableGet (s.retireSpare failed block).xlat.remap block = some e) :
    s.spareFailed block failed true = (State.setXlat ((s.retireSpare failed block).takeSpare u)
      { ((s.retireSpare failed block).takeSpare u).xlat with
        remap := tableSet (s.retireSpare failed block).xlat.remap block { e with spare := u } }, some u) := by
  have hg : tableGet ((s.retireSpare failed block).takeSpare u).xlat.remap block = some e := he
  simp only [State.spareFailed, if_true, hu, hg]
  rfl

/-- A spare failure without a retry, or without a FREE spare: the PENDING status goes (R27, R30). -/
theorem spareFailed_drop {retry : Bool} (h : retry = false ∨ spareToAllocate (s.retireSpare failed block).xlat = none) :
    s.spareFailed block failed retry =
      ((s.retireSpare failed block).setXlat (dropPending (s.retireSpare failed block).xlat block), none) := by
  have hnone : (if retry then spareToAllocate (s.retireSpare failed block).xlat else none) = none := by
    rcases h with h | h
    · rw [h]; rfl
    · rw [h, ite_self]
  simp only [State.spareFailed, hnone]

end

/-! ## The answer (R113, R114) -/

theorem copyProgramDone_stopped {s : State} (h : s.relocStopped = true) (r : ProgramResult) :
    s.copyProgramDone r = s.setReloc { s.reloc with stepOut := false } := by
  simp only [State.copyProgramDone, h, if_true]

section
variable {s : State} {x : RelocRecord} (hrun : s.relocStopped = false) (he : s.reloc.engine = .copy) (hx : s.reloc.record = some x)
include hrun he hx

theorem copyProgramDone_step (hc : x.cursor < 63) : s.copyProgramDone .done =
    (s.setReloc { s.reloc with stepOut := false, record := some { x with buffer := none, cursor := x.cursor + 1 } }).arbitrate := by
  simp only [State.copyProgramDone, hrun, he, hx, Bool.false_eq_true, if_false, if_pos hc]
  rfl

theorem copyProgramDone_complete (hc : x.cursor = 63) :
    s.copyProgramDone .done = (s.setReloc { s.reloc with stepOut := false }).copyComplete x := by
  simp only [State.copyProgramDone, hrun, he, hx, Bool.false_eq_true, if_false, hc, Nat.lt_irrefl]

theorem copyProgramDone_fail {sp : Nat} (hsp : x.spare = some sp) :
    s.copyProgramDone .fail = ((s.setReloc { s.reloc with stepOut := false }).copyFailed x sp).settle := by
  simp only [State.copyProgramDone, hrun, he, hx, Bool.false_eq_true, if_false, hsp]

end

/-- A failed spare program with another spare to take: the next attempt starts at line 0 (R114). -/
theorem copyFailed_retry {s : State} {x : RelocRecord} {sp u : Nat} {e : RemapEntry} (hf : s.health.state ≠ .failed)
    (ha : x.attempt < 3) (he : tableGet s.xlat.remap x.block = some e)
    (hu : spareToAllocate { s.xlat with spares := tableSet s.xlat.spares sp .retired } = some u) :
    s.copyFailed x sp = { s with
      xlat := { s.xlat with
        spares := tableSet (tableSet s.xlat.spares sp .retired) u .pending
        remap := tableSet s.xlat.remap x.block { e with spare := u } }
      health := { s.health with counters := countRetired (countProgramFailure s.health.counters) }
      log := appendRecord s.log
        { kind := .spareRetired, block := some x.block, spare := some sp,
          value := (countRetired (countProgramFailure s.health.counters)).sparesRetired }
      posted := s.posted ++
        [.healthReport (.freeSpares (2048 - (tableSet (tableSet s.xlat.spares sp .retired) u .pending).length))]
      reloc := { s.reloc with
        record := some
          { x with spare := some u, attempt := x.attempt + 1, cursor := 0, poisoned := 0, buffer := none } } } := by
  have hretire := retireSpare_running (s := s.setHealth { s.health with counters := countProgramFailure s.health.counters }) hf
    sp x.block
  rw [State.copyFailed, count_running hf, decide_eq_true ha,
    spareFailed_retry (u := u) (e := e) (by rw [hretire]; exact hu) (by rw [hretire]; exact he), hretire]
  rfl

/-- A failed spare program at the last attempt, or without another spare, ends in the abandonment (R114, R117). -/
theorem copyFailed_abandons {s : State} {x : RelocRecord} {sp : Nat} (hf : s.health.state ≠ .failed)
    (h : x.attempt = 3 ∨ spareToAllocate { s.xlat with spares := tableSet s.xlat.spares sp .retired } = none) :
    s.copyFailed x sp = State.abandon { s with
      xlat := dropPending { s.xlat with spares := tableSet s.xlat.spares sp .retired } x.block
      health := { s.health with counters := countRetired (countProgramFailure s.health.counters) }
      log := appendRecord s.log
        { kind := .spareRetired, block := some x.block, spare := some sp,
          value := (countRetired (countProgramFailure s.health.counters)).sparesRetired } } x (if x.attempt < 3 then 2 else 3) := by
  have hretire := retireSpare_running (s := s.setHealth { s.health with counters := countProgramFailure s.health.counters }) hf
    sp x.block
  have hdrop : decide (x.attempt < 3) = false ∨ spareToAllocate
      (State.retireSpare (s.setHealth { s.health with counters := countProgramFailure s.health.counters }) sp x.block).xlat = none := by
    rw [hretire]
    exact h.imp (fun h => by simp [h]) id
  rw [State.copyFailed, count_running hf, spareFailed_drop hdrop, hretire]
  simp only [decide_eq_true_eq]
  rfl

/-- The exec of the answer of a spare program (R9, R113). -/
theorem exec_copyProgramAnswer {s : State} {d : Delivery} (h : s.deliveredFor .copyProgramAnswer = some d) :
    exec .copyProgramAnswer s =
      .next ((s.withoutDelivery d .copyProgramAnswer).copyProgramDone d.answer.result).arbitrate :=
  congrArg Host.Outcome.next (deliver_eq h fun s d => s.copyProgramDone d.result)

/-- Settles O27: the cases of `copyProgramDone`, and of a failure those of `copyFailed`. -/
theorem copyProgramAdvancesOrEndsTheAttempt : Obligations.CopyProgramAdvancesOrEndsTheAttempt := by
  intro s d hd s0
  rw [exec_copyProgramAnswer hd]
  refine ⟨fun h => ?_, fun x sp hnotice hf he hx hsp hc => ?_⟩
  · rw [copyProgramDone_stopped (s := s0) (relocStopped_eq_true.2 h)]
    rfl
  · have hrun : s0.relocStopped = false := relocStopped_eq_false.2 ⟨hnotice, hf⟩
    refine ⟨fun hr hcur => ?_, fun hr hcur prior mark hg => ?_, fun hr ha e u hg hu => ?_, fun hr h => ?_⟩ <;> rw [hr]
    · rw [show (Delivered.program .done).result = .done from rfl, copyProgramDone_step (s := s0) hrun he hx hcur, arbitrate_twice]
      rfl
    · rw [show (Delivered.program .done).result = .done from rfl, copyProgramDone_complete (s := s0) hrun he hx hcur,
        copyComplete_eq (s := s0.setReloc { s0.reloc with stepOut := false }) hg]
      rfl
    · rw [show (Delivered.program .fail).result = .fail from rfl, copyProgramDone_fail (s := s0) hrun he hx hsp,
        copyFailed_retry (s := s0.setReloc { s0.reloc with stepOut := false }) hf ha hg hu, settle_no_channel, arbitrate_twice]
      · rfl
      · exact hc
    · rw [show (Delivered.program .fail).result = .fail from rfl, copyProgramDone_fail (s := s0) hrun he hx hsp,
        copyFailed_abandons (s := s0.setReloc { s0.reloc with stepOut := false }) hf h]
      rfl

end Sys2Proof.Machine
end

section
/-! SUPPORT. The addition of a block to the lost list, and the discard of its entries (R34, R35, R61). -/

namespace Sys2Proof.Machine

/-! ## Which additions are taken (log 37) -/

theorem isQueued_eq_false {r : Reloc} {block : Nat} :
    r.isQueued block = false ↔ ∀ e ∈ r.urgent ++ r.normal, e.block ≠ block := by
  rw [List.forall_mem_append]
  simp [Reloc.isQueued]

theorem isMigrating_eq_false {r : Reloc} {block : Nat} :
    r.isMigrating block = false ↔ ∀ x, r.record = some x → x.block ≠ block := by
  unfold Reloc.isMigrating
  cases r.record with
  | none => simp
  | some x => simp

theorem addable_iff {s : State} {block : Nat} : s.addable block = true ↔
    block < s.xlat.nb ∧ (∀ e ∈ s.reloc.urgent ++ s.reloc.normal, e.block ≠ block) ∧
      ∀ x, s.reloc.record = some x → x.block ≠ block := by
  simp only [State.addable, Bool.and_eq_true, decide_eq_true_eq, Bool.not_eq_true', isQueued_eq_false, isMigrating_eq_false,
    and_assoc]

/-! ## The discard (R61, R57) -/

/-- The discard, with the answers in the order that the model's free choice gives (log 15). -/
theorem discardBlock_eq (s : State) (block : Nat) :
    let gone := s.staging.entries.filter fun e => decide (e.line / 64 = block)
    let order := freeOrder gone.length s.freeCount gone
    s.discardBlock block = State.examineBarriers { s with
      staging := flagRecords { s.staging with entries := s.staging.entries.filter fun e => decide (e.line / 64 ≠ block) } gone
      host := freeWrites s.host .mediaFail (order.flatMap (·.tags))
      log := if gone = [] then s.log
        else appendRecord s.log { kind := .dataDiscarded, block := some block, value := gone.length }
      freeCount := s.freeCount + gone.length } := by
  intro gone order
  have hkept : (s.staging.entries.filter fun e => !decide (e.block = block)) =
      s.staging.entries.filter fun e => decide (e.line / 64 ≠ block) :=
    List.filter_congr fun e _ => (decide_not (p := e.block = block)).symm
  simp only [State.discardBlock, failTags_eq, hkept]
  by_cases hg : gone = []
  · have hempty : (s.staging.entries.filter fun e => decide (e.block = block)).isEmpty = true := List.isEmpty_iff.2 hg
    rw [if_pos hempty, if_pos hg]
    rfl
  · have hempty : ¬ (s.staging.entries.filter fun e => decide (e.block = block)).isEmpty = true := mt List.isEmpty_iff.1 hg
    rw [if_neg hempty, if_neg hg]
    rfl

/-- The discard leaves the translation unit. -/
theorem discardBlock_xlat (s : State) (block : Nat) : (s.discardBlock block).xlat = s.xlat := by
  rw [discardBlock_eq]
  exact (Changes.examineBarriers_keeps _).1

/-! ## The addition (R34, R35) -/

theorem post_post (s : State) (a b : Instr) : (s.post a).post b = s.setPosted (s.posted ++ [a, b]) :=
  congrArg s.setPosted (List.append_assoc s.posted [a] [b])

theorem addLost_keeps {s : State} {block : Nat} (h : block ∈ s.xlat.lost ∨ s.health.state = .failed) (req : LostRequester) :
    s.addLost block req = s := by
  rw [State.addLost, if_pos (h.symm.imp_right (isLost_iff _ _).2)]

section
variable {s : State} {block : Nat} (hl : block ∉ s.xlat.lost) (hf : s.health.state ≠ .failed)
include hl hf

theorem addLost_overflow (hlen : 64 ≤ s.xlat.lost.length) (req : LostRequester) :
    s.addLost block req = s.post (.healthReport .lostOverflow) := by
  rw [State.addLost, if_neg (not_or.2 ⟨hf, mt (isLost_iff _ _).1 hl⟩)]
  exact if_pos hlen

/-- The state `v` in which the discard of an added block begins is that of the tables `u`, without the block's patrol offer and watch
entry (R34, R93, R151). -/
theorem addLost_adds (hlen : s.xlat.lost.length < 64) (req : LostRequester) {u v : State}
    (hu : State.dropRemap (s.setXlat { s.xlat with lost := insertRising s.xlat.lost block }) block = u)
    (hv : (u.setPatrol (withdrawPatrol u.patrol block)).setWatch (forgetWatch u.watch block) = v) :
    s.addLost block req =
      ((v.discardBlock block).append { kind := .blockLost, block := some block, value := v.xlat.lost.length }).setPosted
        ((v.discardBlock block).posted ++ [.commitRequest (lostParty req), .healthReport (.lostLength v.xlat.lost.length)]) := by
  have hroom : ¬ Config.lostBlocks ≤ s.xlat.lost.length := Nat.not_le.2 hlen
  have hlost (b : EventBody) : ((v.discardBlock block).append b).xlat = v.xlat := discardBlock_xlat v block
  rw [State.addLost, if_neg (not_or.2 ⟨hf, mt (isLost_iff _ _).1 hl⟩), if_neg hroom]
  dsimp only
  rw [hu, hv, post_post, hlost, discardBlock_xlat]
  rfl

end

/-- A block without an entry keeps the tables as they are (R34, step 2). -/
theorem dropRemap_none {s : State} {block : Nat} (h : tableGet s.xlat.remap block = none) : s.dropRemap block = s := by
  simp only [State.dropRemap, h]

/-- The IN_USE entry of a lost block goes and its spare retires (R34, step 2). -/
theorem dropRemap_inUse {s : State} {block sp : Nat} (hf : s.health.state ≠ .failed)
    (h : tableGet s.xlat.remap block = some { spare := sp, state := .inUse }) : s.dropRemap block = { s with
      xlat := { s.xlat with remap := tableErase s.xlat.remap block, spares := tableSet s.xlat.spares sp .retired }
      health := { s.health with counters := countRetired s.health.counters }
      log := appendRecord s.log
        { kind := .spareRetired, block := some block, spare := some sp,
          value := (countRetired s.health.counters).sparesRetired } } := by
  have hretire := retireSpare_running (s := s.setXlat { s.xlat with remap := tableErase s.xlat.remap block }) hf sp block
  simp only [State.dropRemap, h, hretire]
  rfl

/-- The exec of the addition outside a power-on reset (R34, log 3). -/
theorem exec_lostBlockAddition {s : State} (h : s.inReset = false) (block : Nat) (req : LostRequester) :
    exec (.lostBlockAddition block req) s = .next
      (if s.addable block then ((s.without (.lostBlockAddition block req)).addLost block req).settle
        else s.without (.lostBlockAddition block req)) :=
  congrArg Host.Outcome.next (handOver_eq h _ _)

/-- Settles O44: the addition by the cases of `addLost`, its discard by `discardBlock_eq`. -/
theorem lostBlockAdditionAndItsDiscard : Obligations.LostBlockAdditionAndItsDiscard := by
  refine ⟨fun block req s hup => ?_, fun s block => ?_⟩
  · intro s0 taken
    have htaken : s.addable block = true ↔ taken := addable_iff
    have hexec (h : taken) : exec (.lostBlockAddition block req) s = .next (s0.addLost block req).settle := by
      rw [exec_lostBlockAddition hup, if_pos (htaken.2 h)]
    refine ⟨fun h => ?_, fun h hc hkeep => ?_, fun h hc hl hf hlen => ?_, fun h hc hl hlen hf x retired hx => ?_⟩
    · rw [exec_lostBlockAddition hup, if_neg (mt htaken.1 h)]
    · rw [hexec h, addLost_keeps (s := s0) hkeep, settle_no_channel (s := s0) hc]
    · rw [hexec h, addLost_overflow (s := s0) hl hf hlen]
      exact congrArg Host.Outcome.next (settle_no_channel (s := s0.post _) hc)
    · intro counters d
      obtain ⟨v, hd, hlost, hadd⟩ : ∃ v : State, v.discardBlock block = d ∧ v.xlat.lost = insertRising s.xlat.lost block ∧
          s0.addLost block req =
            ((v.discardBlock block).append { kind := .blockLost, block := some block, value := v.xlat.lost.length }).setPosted
              ((v.discardBlock block).posted ++
                [.commitRequest (lostParty req), .healthReport (.lostLength v.xlat.lost.length)]) := by
        obtain ⟨hnone, rfl, rfl⟩ | ⟨sp, hsome, rfl, rfl⟩ := hx
        · exact ⟨_, rfl, rfl, addLost_adds (s := s0) hl hf hlen req (dropRemap_none hnone) rfl⟩
        · exact ⟨_, rfl, rfl, addLost_adds (s := s0) hl hf hlen req (dropRemap_inUse hf hsome) rfl⟩
      rw [hexec h, hadd, hd, hlost]
      clear_value d
      rfl
  · intro gone flagged
    refine ⟨_, freeOrder_perm gone.length s.freeCount gone (Nat.le_refl _), ?_⟩
    rw [discardBlock_eq]
    simp only [freeWrites, List.map_flatMap]
    rfl

end Sys2Proof.Machine
end

section
/-! SUPPORT. The start-up loader: the checks of its records (R125, R128), and its reads of the manufacturing and field copies (R140, R141,
R143). -/

namespace Sys2Proof.Machine

/-! ## The checks of a manufacturing record (R125, R24) -/

theorem mfgValid_iff (r : MfgRecord) : mfgValid r = true ↔
    r.formatOk = true ∧ r.checkOk = true ∧ r.defects.Pairwise (· < ·) ∧ (∀ d ∈ r.defects, 16 ≤ d ∧ d ≤ 260095) ∧
      r.defects.length ≤ 512 ∧ r.defects.length = r.count := by
  simp only [mfgValid, Bool.and_eq_true, rising_iff_pairwise, List.all_eq_true, decide_eq_true_eq, and_assoc]
  exact Iff.rfl

/-! ## The checks of a field image (R126, R128, Table 7-1) -/

theorem settingsInRange_iff (c : Settings) : settingsInRange c = true ↔
    c.writeMode ≤ 1 ∧ 1 ≤ c.drainThreshold ∧ c.drainThreshold ≤ 63 ∧ 1 ≤ c.ageTimer ∧ c.ageTimer ≤ 500 ∧ 1 ≤ c.corrThreshold ∧
      c.corrThreshold ≤ 255 ∧ c.patrolEnable ≤ 1 ∧ 10 ≤ c.patrolInterval ∧ c.patrolInterval ≤ 10000 := by
  simp only [settingsInRange, Bool.and_eq_true, decide_eq_true_eq, and_assoc]

theorem countersInRange_iff (c : Counters) : countersInRange c = true ↔
    ∀ n ∈ [c.relocationsCompleted, c.sparesRetired, c.linesPoisoned, c.uncorrectableSeen, c.programFailuresSeen],
      n ≤ 4294967295 := by
  simp only [countersInRange, Bool.and_eq_true, decide_eq_true_eq, List.forall_mem_cons, List.not_mem_nil, IsEmpty.forall_iff,
    implies_true, and_true, and_assoc]
  exact Iff.rfl

theorem sparesInRange_iff (i : FieldImage) : sparesInRange i = true ↔
    (i.spares.map fun e => e.1).Pairwise (· < ·) ∧ ∀ e ∈ i.spares, e.1 < 2048 ∧ e.2 ≠ .free ∧ e.2 ≠ .pending := by
  simp only [sparesInRange, Bool.and_eq_true, tableSorted_iff_pairwise, List.all_eq_true, decide_eq_true_eq, and_assoc]
  exact Iff.rfl

/-- The IN_USE spares of a sorted list are those that the remap entries name, each once (R128). -/
theorem sparesAgree_iff {i : FieldImage} (hs : tableSorted i.spares = true) : sparesAgree i = true ↔
    (i.remap.map fun e => e.2).Nodup ∧ ∀ n, tableGet i.spares n = some .inUse ↔ n ∈ i.remap.map fun e => e.2 := by
  simp only [sparesAgree, Bool.and_eq_true, Bool.or_eq_true, List.all_eq_true, List.any_eq_true, decide_eq_true_eq, List.mem_map,
    and_assoc]
  refine and_congr_right fun _ => ⟨fun ⟨hnamed, hlisted⟩ n => ⟨fun hn => ?_, ?_⟩, fun h => ⟨fun e he => ?_, fun e he => ?_⟩⟩
  · exact (hlisted _ (tableGet_mem hn)).resolve_left (not_not.2 rfl)
  · rintro ⟨e, he, rfl⟩
    exact hnamed e he
  · exact (h e.2).2 ⟨e, he, rfl⟩
  · by_cases hu : e.2 = .inUse
    · exact .inr ((h e.1).1 ((tableGet_of_mem hs he).trans (congrArg some hu)))
    · exact .inl hu

/-- A table without a value at a key lists no entry of that key. -/
theorem tableGet_eq_none_iff {α : Type} {t : List (Nat × α)} {k : Nat} : tableGet t k = none ↔ ∀ e ∈ t, e.1 ≠ k := by
  refine ⟨fun h e he hk => not_mem_keys h (hk ▸ List.mem_map_of_mem he), fun h => ?_⟩
  cases hg : tableGet t k with
  | none => rfl
  | some a => exact absurd rfl (h _ (tableGet_mem hg))

theorem lostInRange_iff (nb : Nat) (i : FieldImage) :
    (i.lost.all fun b => decide (b < nb) && (tableGet i.remap b).isNone) = true ↔ ∀ b ∈ i.lost, b < nb ∧ ∀ e ∈ i.remap, e.1 ≠ b := by
  simp only [List.all_eq_true, Bool.and_eq_true, decide_eq_true_eq, Option.isNone_iff_eq_none, tableGet_eq_none_iff]

theorem imageValid_iff (nb : Nat) (i : FieldImage) : imageValid nb i = true ↔
    (i.formatOk = true ∧ i.checkOk = true ∧ i.sequence ≠ 0) ∧ settingsInRange i.config = true ∧ countersInRange i.counters = true ∧
      (i.remap.length ≤ 2048 ∧ (i.remap.map fun e => e.1).Pairwise (· < ·) ∧ (∀ e ∈ i.remap, e.1 < nb ∧ e.2 < 2048) ∧
        sparesAgree i = true) ∧ sparesInRange i = true ∧
      (i.lost.length ≤ 64 ∧ i.lost.Pairwise (· < ·) ∧ ∀ b ∈ i.lost, b < nb ∧ ∀ e ∈ i.remap, e.1 ≠ b) := by
  rw [← lostInRange_iff, ← tableSorted_iff_pairwise, ← rising_iff_pairwise]
  have hspares : (∀ e ∈ i.remap, e.1 < nb ∧ e.2 < 2048) ↔
      (i.remap.all fun e => decide (e.1 < nb) && decide (e.2 < Config.spareCount)) = true := by
    simp only [List.all_eq_true, Bool.and_eq_true, decide_eq_true_eq]
    exact Iff.rfl
  rw [hspares]
  simp only [imageValid, Bool.and_eq_true, decide_eq_true_eq]
  tauto

/-! ## A line of a manufacturing copy (R140) -/

section
variable {s : State} {d : Delivered}

theorem mfgLine_next (hb : ¬ (d.isUncorrectable = true ∨ d.poison = true)) (hl : s.loader.line < 63) : s.mfgLine d =
    (s.setLoader { s.loader with line := s.loader.line + 1, mfg := nextMfg s.loader d.content }).arbitrate := by
  rw [State.mfgLine, if_neg (mt Bool.or_eq_true_iff.1 hb)]
  exact if_pos hl

theorem mfgLine_invalid (h : (d.isUncorrectable = true ∨ d.poison = true) ∨
    s.loader.line = 63 ∧ ∀ m, nextMfg s.loader d.content = some m → mfgValid m = false) : s.mfgLine d = s.mfgInvalid := by
  unfold State.mfgLine
  split
  · rfl
  next hb =>
    obtain ⟨hl, hm⟩ := h.resolve_left (mt Bool.or_eq_true_iff.2 hb)
    simp only [hl, Nat.lt_irrefl, if_false]
    split
    next m hnext => rw [hm m hnext, if_neg Bool.false_ne_true]
    · rfl

theorem mfgLine_loads (hb : ¬ (d.isUncorrectable = true ∨ d.poison = true)) (hl : s.loader.line = 63) {m : MfgRecord}
    (hm : nextMfg s.loader d.content = some m) (hv : mfgValid m = true) : s.mfgLine d = s.loadMfg m := by
  rw [State.mfgLine, if_neg (mt Bool.or_eq_true_iff.1 hb)]
  simp only [hl, Nat.lt_irrefl, if_false, hm, hv, if_true]

/-! ## A line of a field copy (R141, R128) -/

theorem fieldLine_next (hb : ¬ (d.isUncorrectable = true ∨ d.poison = true)) (he : ¬ (s.loader.line = 0 ∧ d.isErased = true))
    (hl : s.loader.line < 447) : s.fieldLine d =
      (s.setLoader { s.loader with line := s.loader.line + 1, image := nextImage s.loader d.content }).arbitrate := by
  rw [State.fieldLine, if_neg he, if_neg (mt Bool.or_eq_true_iff.1 hb)]
  exact if_pos hl

theorem fieldLine_blank (he : s.loader.line = 0 ∧ d.isErased = true) : s.fieldLine d = s.classField .blank := by
  rw [State.fieldLine, if_pos he]

theorem fieldLine_bad (he : ¬ (s.loader.line = 0 ∧ d.isErased = true)) (hb : d.isUncorrectable = true ∨ d.poison = true) :
    s.fieldLine d = s.classField .invalid := by
  rw [State.fieldLine, if_neg he, if_pos (Bool.or_eq_true_iff.2 hb)]

theorem fieldLine_last (he : ¬ (s.loader.line = 0 ∧ d.isErased = true)) (hb : ¬ (d.isUncorrectable = true ∨ d.poison = true))
    (hl : s.loader.line = 447) : s.fieldLine d = s.classField (classOf s.xlat.nb (nextImage s.loader d.content)) := by
  rw [State.fieldLine, if_neg he, if_neg (mt Bool.or_eq_true_iff.1 hb)]
  simp only [hl, Nat.lt_irrefl, if_false]

end

theorem classOf_of_valid {nb : Nat} {o : Option FieldImage} {i : FieldImage} (ho : o = some i) (hv : imageValid nb i = true) :
    classOf nb o = .valid i := by
  subst ho
  exact if_pos hv

theorem classOf_of_invalid {nb : Nat} {o : Option FieldImage} (h : ∀ i, o = some i → imageValid nb i = false) :
    classOf nb o = .invalid := by
  cases o with
  | none => rfl
  | some i => exact if_neg (by rw [h i rfl]; exact Bool.false_ne_true)

/-! ## The loader's answer (R140, R141) -/

section
variable {s : State} (h : s.loader.state = .loadingMfg ∨ s.loader.state = .loadingField) (d : Delivered)
include h

theorem loaderAnswered_mfg (ht : s.loader.task = .m0 ∨ s.loader.task = .m1) :
    s.loaderAnswered d = (s.setLoader { s.loader with readOut := false }).mfgLine d := by
  have hload : s.loader.isLoading = true := by rcases h with h | h <;> simp [Loader.isLoading, h]
  rcases ht with ht | ht <;> simp only [State.loaderAnswered, hload, if_true, ht]

theorem loaderAnswered_field (ht : s.loader.task = .fieldA ∨ s.loader.task = .fieldB) :
    s.loaderAnswered d = (s.setLoader { s.loader with readOut := false }).fieldLine d := by
  have hload : s.loader.isLoading = true := by rcases h with h | h <;> simp [Loader.isLoading, h]
  rcases ht with ht | ht <;> simp only [State.loaderAnswered, hload, if_true, ht]

end

/-- The exec of the answer of a loader's read (R9, R140). -/
theorem exec_loaderReadAnswer {s : State} {d : Delivery} (h : s.deliveredFor .loaderReadAnswer = some d) :
    exec .loaderReadAnswer s = .next ((s.withoutDelivery d .loaderReadAnswer).loaderAnswered d.answer).arbitrate :=
  congrArg Host.Outcome.next (deliver_eq h State.loaderAnswered)

/-! ## What follows a copy (R140, R141, Table 7-5) -/

theorem mfgInvalid_m0 {s : State} (h : s.loader.task = .m0) :
    s.mfgInvalid = (s.setLoader { s.loader with task := .m1, line := 0, mfg := none }).arbitrate := by
  simp only [State.mfgInvalid, h]

theorem mfgInvalid_m1 {s : State} (h : s.loader.task = .m1) : s.mfgInvalid = s.enterResult true := by
  simp only [State.mfgInvalid, h]

theorem classField_fieldA {s : State} (h : s.loader.task = .fieldA) (c : CopyClass) : s.classField c =
    (s.setLoader { s.loader with task := .fieldB, line := 0, image := none, classA := some c }).arbitrate := by
  simp only [State.classField, h]

theorem classField_fieldB {s : State} (h : s.loader.task = .fieldB) {a : CopyClass} (ha : s.loader.classA = some a) (c : CopyClass) :
    s.classField c = s.chooseImage a c := by
  simp only [State.classField, h, ha, Option.getD_some]

/-- Settles O34: a line read is a case of `mfgLine` or `fieldLine`, a copy classed a case of `classField`, and the checks of the records
are conjunctions of theirs. -/
theorem loaderReadsTheCopies : Obligations.LoaderReadsTheCopies := by
  refine ⟨fun s d hd _ hstate => ?_, mfgValid_iff, fun nb i => ?_⟩
  · intro s0 bad next
    have hmfg (ht : s.loader.task = .m0 ∨ s.loader.task = .m1) :
        exec .loaderReadAnswer s = .next ((next s.loader).mfgLine d.answer).arbitrate := by
      rw [exec_loaderReadAnswer hd, loaderAnswered_mfg (s := s0) hstate d.answer ht]
      rfl
    have hfield (ht : s.loader.task = .fieldA ∨ s.loader.task = .fieldB) :
        exec .loaderReadAnswer s = .next ((next s.loader).fieldLine d.answer).arbitrate := by
      rw [exec_loaderReadAnswer hd, loaderAnswered_field (s := s0) hstate d.answer ht]
      rfl
    refine ⟨fun ht hb hl => ?_, fun h => ⟨fun ht => ?_, fun ht => ?_⟩, fun ht hb hl m hm hv => ?_, ?_⟩
    · rw [hmfg ht, mfgLine_next (s := next s.loader) hb hl, arbitrate_twice]
      rfl
    · rw [hmfg (.inl ht), mfgLine_invalid (s := next s.loader) h, mfgInvalid_m0 (s := next s.loader) ht, arbitrate_twice]
      rfl
    · rw [hmfg (.inr ht), mfgLine_invalid (s := next s.loader) h, mfgInvalid_m1 (s := next s.loader) ht]
    · rw [hmfg ht, mfgLine_loads (s := next s.loader) hb hl hm hv, State.loadMfg, arbitrate_twice]
      rfl
    · intro erased
      refine ⟨fun ht hb he hl => ?_, ?_⟩
      · rw [hfield ht, fieldLine_next (s := next s.loader) hb he hl, arbitrate_twice]
        rfl
      · intro whole held classed b hb
        have hclass (ht : s.loader.task = .fieldA ∨ s.loader.task = .fieldB) :
            exec .loaderReadAnswer s = .next ((next s.loader).classField b).arbitrate := by
          rw [hfield ht]
          cases b with
          | blank => rw [fieldLine_blank (s := next s.loader) hb]
          | invalid =>
            obtain ⟨he, hbad | ⟨⟨_, hnb, hl⟩, hi⟩⟩ : ¬ erased ∧ (bad ∨ whole ∧ ∀ i, held = some i → imageValid s.xlat.nb i = false) := hb
            · rw [fieldLine_bad (s := next s.loader) he hbad]
            · rw [fieldLine_last (s := next s.loader) he hnb hl]
              exact congrArg (fun c => Host.Outcome.next ((next s.loader).classField c).arbitrate) (classOf_of_invalid hi)
          | valid i =>
            obtain ⟨⟨he, hnb, hl⟩, hi, hv⟩ : whole ∧ held = some i ∧ imageValid s.xlat.nb i = true := hb
            rw [fieldLine_last (s := next s.loader) he hnb hl]
            exact congrArg (fun c => Host.Outcome.next ((next s.loader).classField c).arbitrate) (classOf_of_valid hi hv)
        refine ⟨fun ht => ?_, fun ht a ha => ?_⟩
        · rw [hclass (.inl ht), classField_fieldA (s := next s.loader) ht, arbitrate_twice]
          rfl
        · intro chooses
          have hchoose : chooses ((next s.loader).chooseImage a b) := by
            show exec .loaderReadAnswer s = _
            rw [hclass (.inr ht), classField_fieldB (s := next s.loader) ht ha]
          clear_value chooses
          cases a with
          | valid i =>
            cases b with
            | valid j => exact ⟨fun h => by rwa [State.chooseImage, if_pos h] at hchoose,
                fun h => by rwa [State.chooseImage, if_neg (Nat.not_le.2 h)] at hchoose⟩
            | blank | invalid => exact hchoose
          | blank => cases b <;> exact hchoose
          | invalid => cases b <;> exact hchoose
  · rw [imageValid_iff, settingsInRange_iff, countersInRange_iff, sparesInRange_iff]
    refine and_congr_right fun _ => and_congr_right fun _ => and_congr_right fun _ => ?_
    constructor
    · rintro ⟨⟨hlen, hkeys, hrange, hagree⟩, hspares, hlost⟩
      exact ⟨⟨hlen, hkeys, hrange, (sparesAgree_iff (tableSorted_iff_pairwise.2 hspares.1)).1 hagree⟩, hspares, hlost⟩
    · rintro ⟨⟨hlen, hkeys, hrange, hagree⟩, hspares, hlost⟩
      exact ⟨⟨hlen, hkeys, hrange, (sparesAgree_iff (tableSorted_iff_pairwise.2 hspares.1)).2 hagree⟩, hspares, hlost⟩

end Sys2Proof.Machine
end

section
/-! SUPPORT. The steps of other blocks leave the commit unit as it is, but for the program that the arbiter may issue for it. -/

namespace Sys2Proof.Machine

/-- The commit unit stays, but for whether a program of it is issued. -/
def KeepsCommit (s t : State) : Prop := t.commit = { s.commit with progOut := t.commit.progOut }

theorem KeepsCommit.of_eq {s t : State} (h : t.commit = s.commit) : KeepsCommit s t := by
  unfold KeepsCommit
  rw [h]

theorem KeepsCommit.trans {s t u : State} (h : KeepsCommit s t) (k : KeepsCommit t u) : KeepsCommit s u := by
  unfold KeepsCommit at h k ⊢
  rw [k, h]

theorem KeepsCommit.followUp {s t : State} (h : KeepsCommit s t) : t.commit.followUp = s.commit.followUp := by
  rw [h]

/-! ## The arbiter -/

theorem issueCommit_keepsCommit (t : State) : KeepsCommit t t.issueCommit := by
  unfold State.issueCommit
  split <;> rfl

theorem issueCopy_commit (t : State) : t.issueCopy.commit = t.commit := by
  unfold State.issueCopy
  split
  · split <;> rfl
  · rfl

theorem issueDrain_commit (t : State) : t.issueDrain.commit = t.commit := by
  unfold State.issueDrain
  split <;> rfl

theorem issuePatrol_commit (t : State) : t.issuePatrol.commit = t.commit := by
  unfold State.issuePatrol
  split <;> rfl

theorem arbitrateFrom_keepsCommit (n : Nat) (t : State) : KeepsCommit t (t.arbitrateFrom n) := by
  induction n generalizing t with
  | zero => rfl
  | succ n ih =>
    unfold State.arbitrateFrom
    split
    · rfl
    · split
      · rfl
      · rfl
      · exact issueCommit_keepsCommit t
      · exact .of_eq (issueCopy_commit t)
      · exact .of_eq (issueDrain_commit t)
      · exact .of_eq (issuePatrol_commit t)
      · split
        next r _ =>
          split
          · exact KeepsCommit.trans (t := t.answerLostRead r) (.of_eq rfl) (ih _)
          · rfl
        · rfl

/-! ## The host port -/

theorem takeRead_commit (t : State) (tag addr : Nat) : (t.takeRead tag addr).commit = t.commit := by
  unfold State.takeRead
  split
  · rfl
  · cases t.arrivalCheck addr with
    | healthFailed | outOfRange | lost => rfl
    | admitted => dsimp only; split <;> rfl

theorem takeWrite_commit (t : State) (tag addr : Nat) (data : Line) (mask : Mask) :
    (t.takeWrite tag addr data mask).commit = t.commit := by
  unfold State.takeWrite
  split
  · rfl
  · split
    · rfl
    · cases t.arrivalCheck addr with
      | healthFailed | outOfRange | lost => rfl
      | admitted => dsimp only; split <;> rfl

theorem examineBarriers_commit (t : State) : t.examineBarriers.commit = t.commit := by
  unfold State.examineBarriers State.completeFlush
  dsimp only
  rw [completeBarriers_eq]
  split
  · split <;> rfl
  · rfl

theorem takeBarrier_commit (t : State) (tag : Nat) : (t.takeBarrier tag).commit = t.commit := by
  unfold State.takeBarrier
  split
  · rfl
  · split
    · rfl
    · exact examineBarriers_commit _

theorem takeRequest_commit (t : State) (r : HostRequest) : (t.takeRequest r).commit = t.commit := by
  cases r with
  | read tag addr => exact takeRead_commit t tag addr
  | write tag addr data mask => exact takeWrite_commit t tag addr data mask
  | barrier tag => exact takeBarrier_commit t tag

theorem takeHeld_keepsCommit (n : Nat) (t : State) : KeepsCommit t (t.takeHeld n) := by
  induction n generalizing t with
  | zero => rfl
  | succ n ih =>
    unfold State.takeHeld
    split
    · rfl
    next r rest _ =>
      split
      · rfl
      · split
        · have htake : KeepsCommit t ((t.setHost { t.host with channel := rest }).takeRequest r) := .of_eq (takeRequest_commit _ r)
          exact (htake.trans (arbitrateFrom_keepsCommit _ _)).trans (ih _)
        · rfl

theorem settle_keepsCommit (t : State) : KeepsCommit t t.settle :=
  (arbitrateFrom_keepsCommit _ _).trans (takeHeld_keepsCommit _ _)

/-! ## The end of start-up, the engine and the switch -/

theorem enterResult_keepsCommit (t : State) (failed : Bool) : KeepsCommit t (t.enterResult failed) := by
  have report (u : State) (i : HealthInput) : (u.reportHealth i).commit = u.commit := by rw [reportHealth_eq]
  have opens (u : State) : u.openPort.commit = u.commit := by unfold State.openPort; split <;> rfl
  have starts (u : State) : u.startTimer.commit = u.commit := by unfold State.startTimer; split <;> rfl
  unfold State.enterResult
  dsimp only
  refine KeepsCommit.trans (.of_eq ?_) (settle_keepsCommit _)
  rw [starts, opens, report, State.setLoader_commit]

theorem endRelocate_commit (t : State) (m : Bool) (r : LongResult) (n : Nat) : (t.endRelocate m r n).commit = t.commit := by
  unfold State.endRelocate
  split <;> rfl

theorem callEngine_commit (t : State) : t.callEngine.commit = t.commit := by
  unfold State.callEngine
  split <;> rfl

theorem engineReleased_commit (t : State) (switch : Option Nat) : (t.engineReleased switch).commit = t.commit := by
  unfold State.engineReleased
  split
  · rfl
  · split
    · split
      · split <;> rfl
      · exact (callEngine_commit _).trans (endRelocate_commit _ _ _ _)
      · rfl
    · rfl

theorem releaseWaiter_keepsCommit (t : State) (switch : Option Nat) (p : CommitParty) :
    KeepsCommit t (t.releaseWaiter switch p) := by
  cases p with
  | engine => exact .of_eq (engineReleased_commit t switch)
  | queue => exact .of_eq rfl
  | link =>
    refine .of_eq ?_
    simp only [State.releaseWaiter]
    split <;> rfl
  | loader =>
    simp only [State.releaseWaiter]
    split
    · exact enterResult_keepsCommit t false
    · exact .of_eq rfl

/-- Releasing the waiters is releasing each in the order of the list (R135). -/
theorem releaseWaiters_eq (t : State) (switch : Option Nat) (l : List Waiter) :
    t.releaseWaiters switch l = l.foldl (fun v x => v.releaseWaiter switch x.party) t := by
  induction l generalizing t with
  | nil => rfl
  | cons w rest ih => exact ih _

theorem releaseWaiters_keepsCommit (t : State) (switch : Option Nat) (l : List Waiter) :
    KeepsCommit t (t.releaseWaiters switch l) := by
  induction l generalizing t with
  | nil => exact .of_eq rfl
  | cons w rest ih => exact (releaseWaiter_keepsCommit t switch w.party).trans (ih _)

end Sys2Proof.Machine
end

section
/-! SUPPORT. The answer of a commit program: the next step, the completed commit with its switch and waiters, and the failed copy (R134 to
R138, R29, Table 7-3). -/

namespace Sys2Proof.Machine

/-! ## The switch (R29) -/

/-- The switch of a PENDING entry without a prior spare (R29). -/
theorem applySwitch_first {s : State} {block sp : Nat} {mark : Bool}
    (h : tableGet s.xlat.remap block = some { spare := sp, state := .pending none mark }) :
    s.applySwitch block = s.setXlat { s.xlat with
      remap := tableSet s.xlat.remap block { spare := sp, state := .inUse }
      spares := tableSet s.xlat.spares sp .inUse } := by
  simp only [State.applySwitch, h]

/-- The switch of a PENDING entry with a prior spare, which retires (R29, R33). -/
theorem applySwitch_again {s : State} (hf : s.health.state ≠ .failed) {block sp t : Nat} {mark : Bool}
    (h : tableGet s.xlat.remap block = some { spare := sp, state := .pending (some t) mark }) :
    s.applySwitch block = { s with
      xlat := { s.xlat with
        remap := tableSet s.xlat.remap block { spare := sp, state := .inUse }
        spares := tableSet (tableSet s.xlat.spares sp .inUse) t .retired }
      health := { s.health with counters := countRetired s.health.counters }
      log := appendRecord s.log
        { kind := .spareRetired, block := some block, spare := some t,
          value := (countRetired s.health.counters).sparesRetired } } := by
  have hretire := retireSpare_running (s := s.setXlat { s.xlat with
    remap := tableSet s.xlat.remap block { spare := sp, state := .inUse }
    spares := tableSet s.xlat.spares sp .inUse }) hf t block
  simp only [State.applySwitch, h, hretire]
  rfl

theorem retireSpare_commit (s : State) (i block : Nat) : (s.retireSpare i block).commit = s.commit := by
  unfold State.retireSpare
  rw [Changes.count_eq]
  rfl

theorem applySwitch_commit (s : State) (block : Nat) : (s.applySwitch block).commit = s.commit := by
  unfold State.applySwitch
  split
  · split
    · dsimp only
      split
      · exact retireSpare_commit _ _ _
      · rfl
    · rfl
  · rfl

/-! ## Each waiter (Table 7-3) -/

section
variable (u : State) (switch : Option Nat)

theorem releaseWaiter_link_pending {code : LongCode} (h : u.pendingLong = some code) (hc : code = .setLimit ∨ code = .setConfig) :
    u.releaseWaiter switch .link = u.post (.longCommandEnding code .ok 0) := by
  rcases hc with rfl | rfl <;> simp only [State.releaseWaiter, h]

theorem releaseWaiter_link_other (hl : u.pendingLong ≠ some .setLimit) (hc : u.pendingLong ≠ some .setConfig) :
    u.releaseWaiter switch .link = u := by
  simp only [State.releaseWaiter]
  split
  next h => exact absurd h hl
  next h => exact absurd h hc
  all_goals rfl

theorem releaseWaiter_loader_loading (h : u.loader.state = .loadingField) : u.releaseWaiter switch .loader = u.enterResult false := by
  simp only [State.releaseWaiter, h, if_true]

theorem releaseWaiter_loader_other (h : u.loader.state ≠ .loadingField) : u.releaseWaiter switch .loader = u := by
  simp only [State.releaseWaiter, if_neg h]

variable {u} {x : RelocRecord} (hrun : u.relocStopped = false) (he : u.reloc.engine = .commitWait) (hx : u.reloc.record = some x)
include hrun he hx

theorem releaseWaiter_engine_switch (hp : x.purpose = some .switch) :
    u.releaseWaiter (some x.block) .engine =
      (u.setReloc { u.reloc with engine := .release, record := some { x with purpose := none } }).post .relocationRelease := by
  simp only [State.releaseWaiter, State.engineReleased, hrun, he, hx, hp, Bool.false_eq_true, if_false, if_true]

theorem releaseWaiter_engine_lost (hp : x.purpose = some .lost) :
    u.releaseWaiter switch .engine = (u.endRelocate x.byManagement .lost 0).engineIdle := by
  simp only [State.releaseWaiter, State.engineReleased, hrun, he, hx, hp, Bool.false_eq_true, if_false]

end

theorem endRelocate_eq (u : State) (m : Bool) (r : LongResult) (n : Nat) :
    u.endRelocate m r n = u.setPosted (u.posted ++ (if m then [.longCommandEnding .relocateBlock r n] else [])) := by
  cases m with
  | true => rfl
  | false => exact congrArg u.setPosted (List.append_nil _).symm

/-- An IDLE engine is called when an entry waits (R109). -/
theorem callEngine_idle {u : State} (hi : u.reloc.engine = .idle) (hf : u.health.state ≠ .failed) : u.callEngine =
    u.setPosted (u.posted ++ (if u.reloc.urgent = [] ∧ u.reloc.normal = [] then [] else [.engineTakeHead])) := by
  have hlen : 0 < u.reloc.length ↔ ¬ (u.reloc.urgent = [] ∧ u.reloc.normal = []) := by
    rw [Reloc.length, ← List.length_eq_zero_iff, ← List.length_eq_zero_iff]
    omega
  unfold State.callEngine
  by_cases hq : u.reloc.urgent = [] ∧ u.reloc.normal = []
  · rw [if_neg (fun h => hlen.1 h.2.1 hq), if_pos hq, List.append_nil]
    rfl
  · rw [if_pos ⟨hi, hlen.2 hq, hf⟩, if_neg hq]
    rfl

/-! ## The completed commit (R135, R136) -/

/-- The commit unit when the last step of an image is DONE: sequence and holder are recorded, and the waiters bound to the image leave. -/
def completedUnit (c : CommitUnit) (w : Writing) : CommitUnit :=
  { c with
    newestSeq := w.image.sequence
    holder := some w.target
    writing := none
    waiters := c.waiters.filter fun x => !x.current }

/-- A completed commit releases its waiters on the state `u` that its switch, if any, leaves, and captures the follow-up. -/
theorem commitDone_eq {t u : State} {w : Writing}
    (hu : w.switch = none ∧ t.setCommit (completedUnit t.commit w) = u ∨
      ∃ b, w.switch = some b ∧ (t.setCommit (completedUnit t.commit w)).applySwitch b = u) :
    t.commitDone w =
      let v := (t.commit.waiters.filter fun x => x.current).foldl (fun v x => v.releaseWaiter w.switch x.party) u
      if t.commit.followUp = true then v.capture.settle else v.settle := by
  have hflag : (u.releaseWaiters w.switch (t.commit.waiters.filter fun x => x.current)).commit.followUp = t.commit.followUp := by
    rw [(releaseWaiters_keepsCommit _ _ _).followUp]
    obtain ⟨_, rfl⟩ | ⟨b, _, rfl⟩ := hu
    · rfl
    · rw [applySwitch_commit]
      rfl
  rw [releaseWaiters_eq] at hflag
  unfold State.commitDone
  dsimp only
  obtain ⟨hs, rfl⟩ | ⟨b, hs, rfl⟩ := hu <;>
  · rw [hs] at hflag ⊢
    dsimp only
    rw [releaseWaiters_eq]
    exact if_congr (Bool.eq_iff_iff.1 hflag) rfl rfl

/-! ## The endings of a stop (R138) -/

/-- The long command record waits on its block for the ending of this command: it is PENDING, and no ending of it is posted. -/
def AwaitsEnding (posted : List Instr) (code : LongCode) (r : LongRecord) : Prop :=
  r.code = code ∧ r.ended = none ∧ ∀ result spare, Instr.longCommandEnding code result spare ∉ posted

/-- Taking and posting hand-overs that are no endings leaves a record waiting as it is. -/
theorem awaitsEnding_erase_append {posted : List Instr} {a b : Instr} (ha : isEnding a = false) (hb : isEnding b = false)
    {code : LongCode} {r : LongRecord} : AwaitsEnding (posted.erase a ++ [b]) code r ↔ AwaitsEnding posted code r := by
  have hmem (result : LongResult) (spare : Nat) : Instr.longCommandEnding code result spare ∈ posted.erase a ++ [b] ↔
      Instr.longCommandEnding code result spare ∈ posted := by
    have hna : Instr.longCommandEnding code result spare ≠ a := fun h => absurd ((congrArg isEnding h).trans ha) nofun
    have hnb : Instr.longCommandEnding code result spare ≠ b := fun h => absurd ((congrArg isEnding h).trans hb) nofun
    rw [List.mem_append, List.mem_singleton, List.mem_erase_of_ne hna, or_iff_left hnb]
  simp only [AwaitsEnding, hmem]

/-- A PENDING SET_LIMIT or SET_CONFIG without an ending posted waits on a commit. -/
theorem awaitsCommit_iff {posted : List Instr} {r : LongRecord} :
    (r.ended = none ∧ (r.code = .setLimit ∨ r.code = .setConfig) ∧
      ∀ result spare, Instr.longCommandEnding r.code result spare ∉ posted) ↔
    AwaitsEnding posted .setLimit r ∨ AwaitsEnding posted .setConfig r := by
  constructor
  · rintro ⟨he, hc | hc, hp⟩
    · exact .inl ⟨hc, he, hc ▸ hp⟩
    · exact .inr ⟨hc, he, hc ▸ hp⟩
  · rintro (⟨hc, he, hp⟩ | ⟨hc, he, hp⟩)
    · exact ⟨he, .inl hc, hc ▸ hp⟩
    · exact ⟨he, .inr hc, hc ▸ hp⟩

theorem any_endingOf_iff {code : LongCode} {l : List Instr} :
    l.any (endingOf code) = true ↔ ∃ result spare, Instr.longCommandEnding code result spare ∈ l := by
  rw [List.any_eq_true]
  constructor
  · rintro ⟨c, hc, he⟩
    cases c with
    | longCommandEnding code' result spare =>
      cases of_decide_eq_true (show decide (code' = code) = true from he)
      exact ⟨result, spare, hc⟩
    | _ => exact absurd he Bool.false_ne_true
  · rintro ⟨result, spare, h⟩
    exact ⟨_, h, decide_eq_true rfl⟩

theorem failLong_waiting {s : State} {code : LongCode} {r : LongRecord} (hr : s.link.long = some r) (h : AwaitsEnding s.posted code r) :
    s.failLong code = s.setLink { s.link with long := some { r with ended := some .failed, spare := 0 } } := by
  obtain ⟨hcode, hend, hposted⟩ := h
  have hnone : ¬ s.posted.any (endingOf code) = true := fun h => by
    obtain ⟨result, spare, hm⟩ := any_endingOf_iff.1 h
    exact hposted result spare hm
  simp only [State.failLong, if_neg hnone, State.endLong, hr, hcode, hend, and_self, if_true]

theorem failLong_other {s : State} {code : LongCode} (h : ∀ r, s.link.long = some r → ¬ AwaitsEnding s.posted code r) :
    s.failLong code = s := by
  unfold State.failLong
  split
  · rfl
  next hany =>
    unfold State.endLong
    split
    next r hr =>
      refine if_neg fun ⟨hcode, hend⟩ => h r hr ⟨hcode, hend, fun result spare hm => hany ?_⟩
      exact any_endingOf_iff.2 ⟨result, spare, hm⟩
    · rfl

/-- A stop ends no long command when none waits on a commit. -/
theorem failCommitCommand_none {s : State} (hl : ∀ r, s.link.long = some r → ¬ AwaitsEnding s.posted .setLimit r)
    (hc : ∀ r, s.link.long = some r → ¬ AwaitsEnding s.posted .setConfig r) : s.failCommitCommand = s := by
  rw [State.failCommitCommand, failLong_other hl, failLong_other hc]

/-- A stop ends the one SET_LIMIT or SET_CONFIG that waits on a commit. -/
theorem failCommitCommand_one {s : State} {r : LongRecord} (hr : s.link.long = some r)
    (h : AwaitsEnding s.posted .setLimit r ∨ AwaitsEnding s.posted .setConfig r) : s.failCommitCommand =
      s.setLink { s.link with long := some { r with ended := some .failed, spare := 0 } } := by
  rcases h with h | h
  · rw [State.failCommitCommand, failLong_waiting hr h]
    refine failLong_other fun q hq ⟨_, hend, _⟩ => ?_
    cases hq
    exact absurd hend nofun
  · have hother : ∀ q, s.link.long = some q → ¬ AwaitsEnding s.posted .setLimit q := by
      intro q hq ⟨hcode, _⟩
      cases hr.symm.trans hq
      exact absurd (h.1.symm.trans hcode) nofun
    rw [State.failCommitCommand, failLong_other hother, failLong_waiting hr h]

/-! ## The failed copy (R137) -/

@[simp] theorem copyState_setCopy_other (c : CommitUnit) (k : CopyId) (x : CopyState) :
    copyState (setCopy c k x) (otherCopy k) = copyState c (otherCopy k) := by
  cases k <;> rfl

/-- What every failed commit program leaves before the image moves or the unit stops (R137). -/
def State.copyLost (s : State) (w : Writing) : State :=
  { s with
    commit := setCopy s.commit w.target .failed
    health := { s.health with counters := countProgramFailure s.health.counters }
    log := appendRecord s.log
      { kind := .metadataCopyFailed, line := some (imageLineOf w.step % 64), value := imageBlock w.target (imageLineOf w.step) }
    posted := s.posted ++
      [.healthReport (.copyStates (setCopy s.commit w.target .failed).copyA (setCopy s.commit w.target .failed).copyB)] }

theorem copyFailure_eq {s : State} (hf : s.health.state ≠ .failed) (w : Writing) : s.copyFailure w =
    if copyState s.commit (otherCopy w.target) = .ok then
      ((s.copyLost w).setCommit { (s.copyLost w).commit with
        lastSeq := (s.copyLost w).commit.lastSeq + 1
        writing := some { w with
          target := otherCopy w.target
          step := 0
          image := { w.image with sequence := (s.copyLost w).commit.lastSeq + 1, otherCopy := .failed } } }).arbitrate
    else (s.copyLost w).stopCommit := by
  have hcount := count_running (s := (s.setCommit (setCopy s.commit w.target .failed)).append
    { kind := .metadataCopyFailed, line := some (imageLineOf w.step % 64), value := imageBlock w.target (imageLineOf w.step) }) hf
  have hother : copyState (s.copyLost w).commit (otherCopy w.target) = copyState s.commit (otherCopy w.target) :=
    copyState_setCopy_other _ _ _
  rw [← hother, State.copyFailure, hcount]
  rfl

/-! ## The answer (R134) -/

theorem commitAnswered_stopped {s : State} (h : s.commit.stopped = true ∨ s.health.state = .failed) (r : ProgramResult) :
    s.commitAnswered r = s.setCommit { s.commit with progOut := false } := by
  rw [State.commitAnswered, if_pos h]

section
variable {s : State} {w : Writing} (hs : s.commit.stopped = false) (hf : s.health.state ≠ .failed)
  (hw : s.commit.writing = some w)
include hs hf hw

theorem commitAnswered_running (r : ProgramResult) : s.commitAnswered r =
    match r with
    | .done =>
      if w.step < 447 then
        (s.setCommit { s.commit with progOut := false, writing := some { w with step := w.step + 1 } }).arbitrate
      else (s.setCommit { s.commit with progOut := false }).commitDone w
    | .fail => (s.setCommit { s.commit with progOut := false }).copyFailure w := by
  have hrun : ¬ (s.commit.stopped = true ∨ s.health.state = .failed) := by simp [hs, hf]
  rw [State.commitAnswered, if_neg hrun, hw]
  rfl

end

/-- The exec of the answer of a commit program (R9, R134). -/
theorem exec_commitProgramAnswer {s : State} {d : Delivery} (h : s.deliveredFor .commitProgramAnswer = some d) :
    exec .commitProgramAnswer s =
      .next ((s.withoutDelivery d .commitProgramAnswer).commitAnswered d.answer.result).arbitrate :=
  congrArg Host.Outcome.next (deliver_eq h fun s d => s.commitAnswered d.result)

/-! ## The parts of the statement -/

/-- The release of each waiter (Table 7-3). -/
theorem releaseWaiter_cases (u : State) (switch : Option Nat) :
    u.releaseWaiter switch .queue = u ∧
    (u.loader.state = .loadingField → u.releaseWaiter switch .loader = u.enterResult false) ∧
    (u.loader.state ≠ .loadingField → u.releaseWaiter switch .loader = u) ∧
    (∀ code, u.pendingLong = some code → code = .setLimit ∨ code = .setConfig →
      u.releaseWaiter switch .link = { u with posted := u.posted ++ [.longCommandEnding code .ok 0] }) ∧
    (u.pendingLong ≠ some .setLimit → u.pendingLong ≠ some .setConfig → u.releaseWaiter switch .link = u) ∧
    ∀ x, u.reloc.failed = false → u.health.state ≠ .failed → u.reloc.engine = .commitWait → u.reloc.record = some x →
      (x.purpose = some .switch → switch = some x.block → u.releaseWaiter switch .engine = { u with
        reloc := { u.reloc with engine := .release, record := some { x with purpose := none } }
        posted := u.posted ++ [.relocationRelease] }) ∧
      (x.purpose = some .lost → u.releaseWaiter switch .engine = { u with
        reloc := { u.reloc with engine := .idle, record := none, stepOut := false }
        posted := u.posted ++ (if x.byManagement then [.longCommandEnding .relocateBlock .lost 0] else []) ++
          (if u.reloc.urgent = [] ∧ u.reloc.normal = [] then [] else [.engineTakeHead]) }) := by
  refine ⟨rfl, releaseWaiter_loader_loading u switch, releaseWaiter_loader_other u switch,
    fun code => releaseWaiter_link_pending u switch, releaseWaiter_link_other u switch, fun x hn hf he hx => ⟨?_, fun hp => ?_⟩⟩
  · rintro hp rfl
    exact releaseWaiter_engine_switch (relocStopped_eq_false.2 ⟨hn, hf⟩) he hx hp
  · rw [releaseWaiter_engine_lost switch (relocStopped_eq_false.2 ⟨hn, hf⟩) he hx hp, endRelocate_eq, State.engineIdle]
    exact callEngine_idle (u := State.setReloc _ _) rfl hf

/-- With the other copy OK the image moves there, under a new sequence and from its first step (R137). -/
theorem copyFailure_moves {s : State} (hf : s.health.state ≠ .failed) {w : Writing}
    (h : copyState s.commit (otherCopy w.target) = .ok) :
    s.copyFailure w = ((s.copyLost w).setCommit { (s.copyLost w).commit with
      lastSeq := (s.copyLost w).commit.lastSeq + 1
      writing := some { w with
        target := otherCopy w.target
        step := 0
        image := { w.image with sequence := (s.copyLost w).commit.lastSeq + 1, otherCopy := .failed } } }).arbitrate := by
  rw [copyFailure_eq hf, if_pos h]

/-- With the other copy FAILED the unit stops and ends the long command that waits on it (R137, R138). -/
theorem copyFailure_stops {s : State} (hf : s.health.state ≠ .failed) {w : Writing}
    (h : copyState s.commit (otherCopy w.target) = .failed) :
    s.copyFailure w = State.failCommitCommand ((s.copyLost w).setCommit { (s.copyLost w).commit with stopped := true }) := by
  rw [copyFailure_eq hf, if_neg (by rw [h]; nofun)]
  rfl

/-- Settles O33: the answer by `commitAnswered_running`, a completed commit by `commitDone_eq`, a failed copy by `copyFailure_moves` or
`copyFailure_stops`, and each waiter by `releaseWaiter_cases`. -/
theorem commitProgramStepsCompletesOrMoves : Obligations.CommitProgramStepsCompletesOrMoves := by
  refine ⟨fun s d hd => ?_, releaseWaiter_cases⟩
  intro s0
  rw [exec_commitProgramAnswer hd]
  refine ⟨fun h => ?_, fun w hs hf hw => ?_⟩
  · rw [commitAnswered_stopped (s := s0) h]
    rfl
  · intro ended
    rw [commitAnswered_running (s := s0) hs hf hw]
    refine ⟨fun hr hstep => ?step, fun hr hstep => ?done, fun hr => ?fail⟩ <;> rw [hr]
    case step =>
      show Host.Outcome.next (State.arbitrate (if w.step < 447 then _ else _)) = _
      rw [if_pos hstep, arbitrate_twice]
      rfl
    case done =>
      have hdone {u : State}
          (hu : w.switch = none ∧ ended = u ∨ ∃ b, w.switch = some b ∧ ended.applySwitch b = u) :
          (if w.step < 447 then
            (s0.setCommit { s0.commit with progOut := false, writing := some { w with step := w.step + 1 } }).arbitrate
          else (s0.setCommit { s0.commit with progOut := false }).commitDone w) =
          let v := (s.commit.waiters.filter fun x => x.current).foldl (fun v x => v.releaseWaiter w.switch x.party) u
          if s.commit.followUp = true then v.capture.settle else v.settle := by
        rw [hstep, if_neg (Nat.lt_irrefl _)]
        exact commitDone_eq hu
      intro completes
      refine ⟨fun hn => congrArg (Host.Outcome.next ∘ State.arbitrate) (hdone (.inl ⟨hn, rfl⟩)),
        fun block sp prior mark hb hg => ⟨fun hp => ?_, fun t hp => ?_⟩, fun hc hn hall => ?_,
        fun hc hn hfollow hlink code hcode hlong => ?_⟩
      · subst hp
        exact congrArg (Host.Outcome.next ∘ State.arbitrate) (hdone (.inr ⟨block, hb, applySwitch_first hg⟩))
      · subst hp
        exact congrArg (Host.Outcome.next ∘ State.arbitrate)
          (hdone (.inr ⟨block, hb, applySwitch_again (s := ended) hf hg⟩))
      · have hnone := hdone (.inl ⟨hn, rfl⟩)
        rw [List.filter_eq_nil_iff.2 fun x hx => by rw [hall x hx]; exact Bool.false_ne_true] at hnone
        refine ⟨fun hfollow => ?_, fun hfollow => ?_⟩ <;> rw [hfollow] at hnone
        · exact congrArg Host.Outcome.next ((congrArg State.arbitrate (hnone.trans (settle_no_channel (s := ended) hc))).trans
            (arbitrate_twice ended))
        · exact congrArg Host.Outcome.next
            ((congrArg State.arbitrate (hnone.trans (settle_no_channel (s := ended.capture) hc))).trans (arbitrate_twice _))
      · have hlinked := hdone (.inl ⟨hn, rfl⟩)
        rw [hlink, hfollow] at hlinked
        have hrelease := releaseWaiter_link_pending ended w.switch hcode hlong
        exact congrArg Host.Outcome.next ((congrArg State.arbitrate (hlinked.trans ((congrArg State.settle hrelease).trans
          (settle_no_channel (s := ended.post _) hc)))).trans (arbitrate_twice _))
    case fail =>
      intro c line block failed
      have hcopy : copyState { s.commit with progOut := false } (otherCopy w.target) = copyState s.commit (otherCopy w.target) := by
        cases w.target <;> rfl
      refine ⟨fun hok => ?_, fun hfailed => ?_⟩
      · have hmove := copyFailure_moves (s := s0.setCommit { s.commit with progOut := false }) hf (hcopy.trans hok)
        refine congrArg Host.Outcome.next ((congrArg State.arbitrate hmove).trans ((arbitrate_twice _).trans ?_))
        obtain ⟨_ | _, step, image, switch⟩ := w <;> rfl
      · intro stopped waits
        have hstop : (s0.setCommit { s.commit with progOut := false }).copyFailure w = stopped.failCommitCommand := by
          rw [copyFailure_stops (s := s0.setCommit { s.commit with progOut := false }) hf (hcopy.trans hfailed)]
          obtain ⟨_ | _, step, image, switch⟩ := w <;> rfl
        have hawaits {code : LongCode} {r : LongRecord} : AwaitsEnding stopped.posted code r ↔ AwaitsEnding s.posted code r :=
          awaitsEnding_erase_append rfl rfl
        refine ⟨fun h => ?_, fun r hr h => ?_⟩
        · have hnone := failCommitCommand_none (s := stopped)
            (fun r hr ha => h r hr (awaitsCommit_iff.2 (.inl (hawaits.1 ha))))
            (fun r hr ha => h r hr (awaitsCommit_iff.2 (.inr (hawaits.1 ha))))
          exact congrArg (Host.Outcome.next ∘ State.arbitrate) (hstop.trans hnone)
        · have hone := failCommitCommand_one (s := stopped) hr ((awaitsCommit_iff.1 h).imp hawaits.2 hawaits.2)
          exact congrArg (Host.Outcome.next ∘ State.arbitrate) (hstop.trans hone)

end Sys2Proof.Machine
end

section
/-! SUPPORT. The snapshot of a line, the drain's choice and the examination of the barrier list (R46, R49, R58). -/

namespace Sys2Proof.Machine

/-! ## Snapshots (R46) -/

/-- A byte placed over a line is that of the upper line where the mask has its position. -/
theorem overlay_getElem (mask : Mask) (upper below : Line) {i : Nat} (hi : i < 64) :
    (overlay mask upper below)[i] = if mask.getLsbD i then upper[i] else below[i] := by
  simp only [overlay, Vector.getElem_ofFn, Fin.getElem_fin]

/-- Placing entries over a snapshot adds their masks to its coverage. -/
theorem foldl_snapshotStep_coverage (l : List Entry) (x : Line × Mask) (i : Nat) :
    (l.foldl snapshotStep x).2.getLsbD i = (x.2.getLsbD i || l.any fun e => e.mask.getLsbD i) := by
  induction l generalizing x with
  | nil => simp
  | cons e rest ih => simp [ih, snapshotStep, Bool.or_assoc]

/-- Entries whose masks lack a position leave its byte. -/
theorem foldl_snapshotStep_keeps {l : List Entry} {i : Nat} (hi : i < 64) (h : ∀ f ∈ l, f.mask.getLsbD i = false)
    (x : Line × Mask) : (l.foldl snapshotStep x).1[i] = x.1[i] := by
  induction l generalizing x with
  | nil => rfl
  | cons e rest ih =>
    obtain ⟨he, hrest⟩ := List.forall_mem_cons.1 h
    rw [List.foldl_cons, ih hrest, snapshotStep, overlay_getElem _ _ _ hi, he, if_neg Bool.false_ne_true]

/-- Settles O6: the entries after the newest that holds a byte leave it, and that entry places its own. -/
theorem snapshotHoldsTheNewestBytes : Obligations.SnapshotHoldsTheNewestBytes := by
  intro st line i hi own
  refine ⟨?_, fun older e newer hown he hnewer => ?_⟩
  · exact (foldl_snapshotStep_coverage own (zeroLine, 0) i).trans (by simp)
  · show (own.foldl snapshotStep (zeroLine, 0)).1[i] = e.data[i]
    rw [hown, List.foldl_append, List.foldl_cons, foldl_snapshotStep_keeps hi hnewer, snapshotStep, overlay_getElem _ _ _ hi,
      if_pos he]

/-! ## The drain's choice (R48, R49) -/

theorem covers_iff (closed : Nat) (e : Entry) : covers closed e = true ↔ e.epoch ≤ closed := by
  simp [covers]

theorem eligible_iff (st : Staging) (e : Entry) : eligible st e = true ↔
    st.threshold ≤ st.entries.length ∨ e.agePassed = true ∨ (∃ r ∈ st.hostSlots, e.epoch ≤ r.epoch) ∨
      (∃ r, st.flushSlot = some r ∧ e.epoch ≤ r.epoch) ∨ st.mode = .through ∨ e.tags ≠ [] := by
  simp only [eligible, coveredByRecord, Bool.or_eq_true, decide_eq_true_eq, List.any_eq_true, Option.any_eq_true,
    covers_iff, Bool.not_eq_true', List.isEmpty_eq_false_iff, or_assoc]
  rfl

theorem hasOlder_eq_false (st : Staging) (e : Entry) :
    hasOlder st e = false ↔ ∀ g ∈ st.entries, g.line = e.line → e.order ≤ g.order := by
  simp [hasOlder]

theorem issuable_iff (st : Staging) (e : Entry) : issuable st e = true ↔
    eligible st e = true ∧ e.hold = .none ∧ (∀ g ∈ st.entries, g.line = e.line → e.order ≤ g.order) ∧
      fenceCount st e.line = 0 := by
  simp only [issuable, Bool.and_eq_true, decide_eq_true_eq, Bool.not_eq_true', hasOlder_eq_false, and_assoc]

section
variable {st : Staging}

/-- While an operation of the drain is in progress it offers nothing (R49). -/
theorem drainOffer_busy (h : st.drainOp ≠ none) : drainOffer st = none := by
  rw [drainOffer, if_pos (Option.isSome_iff_ne_none.2 h)]

variable (h : st.drainOp = none)
include h

/-- An ISSUED entry has its program offered (R51). -/
theorem drainOffer_issued {older newer : List Entry} {e : Entry} (hst : st.entries = older ++ e :: newer)
    (he : e.state = .issued) (hold : ∀ f ∈ older, f.state ≠ .issued) : drainOffer st = some (e, .program) := by
  have hfind : st.entries.find? (fun e => decide (e.state = .issued)) = some e :=
    List.find?_eq_some_iff_append.2 ⟨decide_eq_true he, older, newer, hst, fun f hf => by simp [hold f hf]⟩
  simp only [drainOffer, h, hfind, Option.isSome_none, Bool.false_eq_true, if_false]

/-- With no entry ISSUED the offer is the first operation of the oldest issuable entry (R49, R50). -/
theorem drainOffer_none_issued (hn : ∀ f ∈ st.entries, f.state ≠ .issued) : drainOffer st =
    (st.entries.find? (issuable st)).map fun e => (e, if e.mask = fullMask then .program else .read) := by
  have hfind : st.entries.find? (fun e => decide (e.state = .issued)) = none :=
    List.find?_eq_none.2 fun f hf => by simp [hn f hf]
  simp only [drainOffer, h, hfind, Option.isSome_none, Bool.false_eq_true, if_false]

end

/-- Settles O19: the first issuable entry of the list, issuability spelt out by `issuable_iff` and `eligible_iff`. That nothing is offered
up to the delivery of the operation's answer is log 30. -/
theorem drainChoosesTheOldestIssuableEntry : Obligations.DrainChoosesTheOldestIssuableEntry := by
  intro st
  refine ⟨drainOffer_busy, fun h => ⟨fun e older newer hst he hold => drainOffer_issued h hst he hold, fun hn e kind => ?_⟩⟩
  have hcan (f : Entry) := (issuable_iff st f).trans (and_congr_left' (eligible_iff st f))
  simp only [← hcan]
  rw [drainOffer_none_issued h hn, Option.map_eq_some_iff]
  constructor
  · rintro ⟨f, hf, heq⟩
    obtain ⟨rfl, rfl⟩ := Prod.mk.inj heq
    obtain ⟨hi, older, newer, hst, hold⟩ := List.find?_eq_some_iff_append.1 hf
    exact ⟨older, newer, hst, rfl, hi, fun g hg => by simpa using hold g hg⟩
  · rintro ⟨older, newer, hst, rfl, hi, hold⟩
    exact ⟨e, List.find?_eq_some_iff_append.2 ⟨hi, older, newer, hst, fun g hg => by simpa using hold g hg⟩, rfl⟩

/-! ## The examination of the barrier list (R58) -/

/-- The FLUSH record leaves its slot when it is complete, and its outcome goes to the link (R58). -/
theorem completeFlush_eq (s : State) : s.completeFlush = { s with
    staging := { s.staging with flushSlot := s.staging.flushSlot.filter fun r => !recordComplete s.staging r.epoch }
    posted := s.posted ++ ((s.staging.flushSlot.filter fun r => recordComplete s.staging r.epoch).map fun r =>
      Instr.longCommandEnding .flush (if r.failFlag then .dataLost else .ok) 0).toList } := by
  unfold State.completeFlush
  cases hf : s.staging.flushSlot with
  | none =>
    simp only [Option.filter_none, Option.map_none, Option.toList_none, List.append_nil]
    rw [← hf]
  | some r =>
    cases hr : recordComplete s.staging r.epoch with
    | true => simp only [Option.filter_some, hr]; rfl
    | false =>
      simp only [Option.filter_some, hr, Bool.not_false, if_true, Bool.false_eq_true, if_false, Option.map_none, Option.toList_none,
        List.append_nil]
      rw [← hf]

/-- The examination of the barrier list: the complete records leave, with their answers in the order that the model's free choice gives
(R58, R77, log 15). -/
theorem examineBarriers_eq (s : State) :
    let ended := s.staging.hostSlots.filter fun r => recordComplete s.staging r.epoch
    s.examineBarriers = { s with
      staging := { s.staging with
        hostSlots := s.staging.hostSlots.filter fun r => !recordComplete s.staging r.epoch
        flushSlot := s.staging.flushSlot.filter fun r => !recordComplete s.staging r.epoch }
      host := freeBarriers s.host (freeOrder ended.length s.freeCount ended)
      posted := s.posted ++ ((s.staging.flushSlot.filter fun r => recordComplete s.staging r.epoch).map fun r =>
        Instr.longCommandEnding .flush (if r.failFlag then .dataLost else .ok) 0).toList
      freeCount := s.freeCount + ended.length } := by
  intro ended
  simp only [State.examineBarriers, completeBarriers_eq, completeFlush_eq]
  rfl

/-- Settles O25: the answers leave in the order of `examineBarriers_eq`, a reordering of the complete records. -/
theorem barriersCompleteWhenNothingIsCovered : Obligations.BarriersCompleteWhenNothingIsCovered := fun s =>
  ⟨_, freeOrder_perm _ s.freeCount _ (Nat.le_refl _), examineBarriers_eq s⟩

end Sys2Proof.Machine
end

section
/-! SUPPORT. The requests that pass the arrival checks (R42 to R46, R56, R73, R75, R79). -/

namespace Sys2Proof.Machine

/-! ## A request presented to a quiet part (R66) -/

section
variable {s : State} (hq : s.Quiet) (hs : s.TakesRequests)
include hq hs

theorem exec_read_quiet (tag : Fin 32) (addr : Nat) : exec (.read tag addr) s = .next (s.takeRead tag.val addr).arbitrate := by
  have htake : s.canTake (.read tag.val addr) = true := by simp [State.canTake, hs.1, hs.2, Config.responseRoom]
  exact congrArg Host.Outcome.next (present_quiet _ hq htake)

theorem exec_write_quiet (ho : occupancy s.staging < 64) (tag : Fin 32) (addr : Nat) (data : Line) (mask : Mask) :
    exec (.write tag addr data mask) s = .next (s.takeWrite tag.val addr data mask).arbitrate := by
  have htake : s.canTake (.write tag.val addr data mask) = true := by
    simp [State.canTake, hs.1, hs.2, ho, Config.responseRoom, Config.stagingEntries]
  exact congrArg Host.Outcome.next (present_quiet _ hq htake)

theorem exec_barrier_quiet (ho : s.staging.hostSlots.length < 4) (tag : Fin 8) :
    exec (.barrier tag) s = .next (s.takeBarrier tag.val).arbitrate := by
  have htake : s.canTake (.barrier tag.val) = true := by
    simp [State.canTake, hs.1, hs.2, ho, Config.responseRoom, Config.hostBarrierSlots]
  exact congrArg Host.Outcome.next (present_quiet _ hq htake)

end

theorem arrivalCheck_admitted {s : State} {addr : Nat} (h : s.Admits addr) : s.arrivalCheck addr = .admitted := by
  obtain ⟨hf, hn, he, hl⟩ := h
  have hr : ¬ (s.xlat.nb * Config.linesPerBlock ≤ addr ∨ s.xlat.el ≤ blockOf addr) :=
    not_or.2 ⟨Nat.not_le.2 hn, Nat.not_le.2 he⟩
  rw [State.arrivalCheck, if_neg hf, if_neg hr]
  exact if_neg (mt (isLost_iff _ _).1 hl)

theorem outstanding_eq_false {tags : List (Nat × Nat)} {tag : Nat} (h : tableGet tags tag = none) : ¬ outstanding tags tag = true := by
  simp [outstanding, h]

/-! ## READ (R46, R79) -/

section
variable {s : State} {tag addr : Nat} (ht : tableGet s.host.readTags tag = none) (ha : s.Admits addr)
include ht ha

theorem takeRead_full (hc : (snapshot s.staging addr).2 = fullMask) :
    s.takeRead tag addr = s.respond (.readResult tag (.ok (snapshot s.staging addr).1)) := by
  rw [State.takeRead, if_neg (outstanding_eq_false ht), arrivalCheck_admitted ha]
  exact if_pos hc

theorem takeRead_short (hc : (snapshot s.staging addr).2 ≠ fullMask) :
    s.takeRead tag addr = (s.raiseFence addr).setHost { s.host with
      queue := s.host.queue ++
        [{ tag := tag, addr := addr, snapshot := (snapshot s.staging addr).1, coverage := (snapshot s.staging addr).2,
           issued := false }]
      readTags := tableSet s.host.readTags tag addr } := by
  rw [State.takeRead, if_neg (outstanding_eq_false ht), arrivalCheck_admitted ha]
  exact if_neg hc

end

/-- Settles O7: a full coverage is a response at once, a short one a queued read. -/
theorem readIsAnsweredOrQueued : Obligations.ReadIsAnsweredOrQueued := by
  intro tag addr s hq hs ht ha
  refine ⟨fun hc => exec_read_answered hq hs (takeRead_full ht ha hc) (hq.1.respond _), fun hc => ?_⟩
  rw [exec_read_quiet hq hs, takeRead_short ht ha hc]
  rfl

/-! ## WRITE (R42, R43, R45, R73) -/

theorem isOpenOf_iff (line : Nat) (e : Entry) : isOpenOf line e = true ↔ e.line = line ∧ e.state = .opened := by
  simp [isOpenOf]

theorem takeWrite_admitted {s : State} {tag addr : Nat} {mask : Mask} (hm : mask ≠ 0) (ht : tableGet s.host.writeTags tag = none)
    (ha : s.Admits addr) (data : Line) : s.takeWrite tag addr data mask = { s with
      staging := stageWrite s.staging tag addr data mask
      host := if s.staging.mode = .through then { s.host with writeTags := tableSet s.host.writeTags tag addr }
        else { s.host with responses := s.host.responses ++ [.writeAck tag .accepted] } } := by
  rw [State.takeWrite, if_neg hm, if_neg (outstanding_eq_false ht), arrivalCheck_admitted ha]
  cases hmode : s.staging.mode with
  | back => rfl
  | through => rfl

/-- With an OPEN entry of the line a write merges into it (R42). -/
theorem stageWrite_merges {st : Staging} {line : Nat} (h : ∃ e ∈ st.entries, e.line = line ∧ e.state = .opened) (tag : Nat)
    (data : Line) (mask : Mask) : stageWrite st tag line data mask =
      { st with entries := st.entries.map fun e =>
          if e.line = line ∧ e.state = .opened then mergeInto st tag data mask e else e } := by
  have hany : st.entries.any (isOpenOf line) = true := by simpa only [List.any_eq_true, isOpenOf_iff] using h
  rw [stageWrite, if_pos hany]
  simp only [isOpenOf_iff]

/-- With none it is allocated an entry (R42). -/
theorem stageWrite_allocates {st : Staging} {line : Nat} (h : ∀ e ∈ st.entries, e.line = line → e.state ≠ .opened) (tag : Nat)
    (data : Line) (mask : Mask) : stageWrite st tag line data mask =
      { st with entries := st.entries ++ [newEntry st tag line data mask], nextOrder := st.nextOrder + 1 } := by
  have hany : ¬ st.entries.any (isOpenOf line) = true := by
    simp only [List.any_eq_true, isOpenOf_iff, not_exists, not_and]
    exact h
  rw [stageWrite, if_neg hany]

theorem holdFor_eq (st : Staging) (block : Nat) : holdFor st block =
    if ∃ e ∈ st.entries, e.line / 64 = block ∧ e.hold = .srcFailed then .srcFailed
    else if st.migrating = some block then .migrating else .none := by
  simp only [holdFor, hasSrcFailed_eq, decide_eq_true_eq]

/-- Settles O8: the buffer by `stageWrite_merges` and `stageWrite_allocates`, the port by `takeWrite_admitted`. -/
theorem writeMergesOrAllocates : Obligations.WriteMergesOrAllocates := by
  intro tag addr data mask s hq hs ho hm ht ha through host
  have hexec : exec (.write tag addr data mask) s =
      .next (State.arbitrate { s with staging := stageWrite s.staging tag.val addr data mask, host := host }) := by
    rw [exec_write_quiet hq hs ho, takeWrite_admitted hm ht ha]
  refine ⟨fun h => ?_, fun h => ?_⟩
  · rw [hexec, stageWrite_merges h]
    rfl
  · rw [hexec, stageWrite_allocates h, newEntry, holdFor_eq]
    rfl

/-! ## BARRIER (R41, R56, R58, R75) -/

theorem recordComplete_eq_false (st : Staging) (closed : Nat) :
    recordComplete st closed = false ↔ ∃ e ∈ st.entries, e.epoch ≤ closed := by
  simp [recordComplete, covers]

theorem sealEntry_epoch (e : Entry) : (sealEntry e).epoch = e.epoch := by
  unfold sealEntry
  split <;> rfl

/-- Sealing the entries completes no record (R41). -/
theorem sealed_covered {entries : List Entry} {closed : Nat} (h : ∃ e ∈ entries, e.epoch ≤ closed) :
    ∃ e ∈ entries.map sealEntry, e.epoch ≤ closed := by
  obtain ⟨e, he, hc⟩ := h
  exact ⟨sealEntry e, List.mem_map_of_mem he, by rw [sealEntry_epoch]; exact hc⟩

/-- An examination that finds an entry covered by each record changes nothing (R58). -/
theorem examineBarriers_covered {s : State} (hslots : ∀ r ∈ s.staging.hostSlots, ∃ e ∈ s.staging.entries, e.epoch ≤ r.epoch)
    (hflush : ∀ r, s.staging.flushSlot = some r → ∃ e ∈ s.staging.entries, e.epoch ≤ r.epoch) : s.examineBarriers = s := by
  have hended : (s.staging.hostSlots.filter fun r => recordComplete s.staging r.epoch) = [] :=
    List.filter_eq_nil_iff.2 fun r hr => by rw [(recordComplete_eq_false _ _).2 (hslots r hr)]; exact Bool.false_ne_true
  have hkept : (s.staging.hostSlots.filter fun r => !recordComplete s.staging r.epoch) = s.staging.hostSlots :=
    List.filter_eq_self.2 fun r hr => by rw [(recordComplete_eq_false _ _).2 (hslots r hr)]; rfl
  have hflushed : (s.staging.flushSlot.filter fun r => recordComplete s.staging r.epoch) = none :=
    Option.filter_eq_none_iff.2 fun r hr => by rw [(recordComplete_eq_false _ _).2 (hflush r hr)]; exact Bool.false_ne_true
  have hstays : (s.staging.flushSlot.filter fun r => !recordComplete s.staging r.epoch) = s.staging.flushSlot := by
    cases hr : s.staging.flushSlot with
    | none => rfl
    | some r => exact Option.filter_some_pos (by rw [(recordComplete_eq_false _ _).2 (hflush r hr)]; rfl)
  rw [examineBarriers_eq, hended, hkept, hflushed, hstays]
  simp [freeBarriers]

theorem takeBarrier_places {s : State} {tag : Nat} (ht : tableGet s.host.barrierTags tag = none) (hf : s.health.state ≠ .failed) :
    s.takeBarrier tag = s.placeBarrier tag := by
  rw [State.takeBarrier, if_neg (outstanding_eq_false ht), if_neg hf]

/-- An examination that finds no entry staged completes every record (R58). -/
theorem examineBarriers_empty {s : State} (h : s.staging.entries = []) : s.examineBarriers = { s with
    staging := { s.staging with hostSlots := [], flushSlot := none }
    host := freeBarriers s.host (freeOrder s.staging.hostSlots.length s.freeCount s.staging.hostSlots)
    posted := s.posted ++ (s.staging.flushSlot.map fun r =>
      Instr.longCommandEnding .flush (if r.failFlag then .dataLost else .ok) 0).toList
    freeCount := s.freeCount + s.staging.hostSlots.length } := by
  have hall (closed : Nat) : recordComplete s.staging closed = true := by simp [recordComplete, h]
  have hflush : (s.staging.flushSlot.filter fun _ => true) = s.staging.flushSlot := by cases s.staging.flushSlot <;> rfl
  have hnone : (s.staging.flushSlot.filter fun _ => false) = none := by cases s.staging.flushSlot <;> rfl
  simp only [examineBarriers_eq, hall, Bool.not_true, List.filter_true, List.filter_false, hflush, hnone]

/-- With no entry staged and no other record standing, a barrier completes as it is placed (R56, R58). -/
theorem placeBarrier_empty {s : State} (he : s.staging.entries = []) (hs : s.staging.hostSlots = []) (hf : s.staging.flushSlot = none)
    (ht : s.host.barrierTags = []) (tag : Nat) : s.placeBarrier tag = { s with
      staging := { s.staging with epoch := s.staging.epoch + 1 }
      host := { s.host with responses := s.host.responses ++ [.barrierDone tag .durable] }
      freeCount := s.freeCount + 1 } := by
  rw [State.placeBarrier, examineBarriers_empty (by simp [closeEpoch, he])]
  simp [closeEpoch, freeBarriers, tableSet, tableErase, he, hs, hf, ht]

/-- Settles O9: with an entry covered the examination changes nothing, with none staged the new record completes at once. -/
theorem barrierClosesTheEpoch : Obligations.BarrierClosesTheEpoch := by
  intro tag s hq hs hroom ht hf
  have hexec : exec (.barrier tag) s = .next (s.placeBarrier tag.val).arbitrate := by
    rw [exec_barrier_quiet hq hs hroom, takeBarrier_places ht hf]
  refine ⟨fun hnew hslots hflush => ?_, fun he hslots hflush htags => ?_⟩
  · rw [hexec, State.placeBarrier, examineBarriers_covered]
    · rfl
    · intro r hr
      rcases List.mem_append.1 hr with hr | hr
      · exact sealed_covered (hslots r hr)
      · cases List.mem_singleton.1 hr
        exact sealed_covered hnew
    · exact fun r hr => sealed_covered (hflush r hr)
  · rw [hexec, placeBarrier_empty he hslots hflush htags]

end Sys2Proof.Machine
end

section
/-! SUPPORT. The answers to a host read and to the drain's operations, and the discard that FAILED brings (R51 to R53, R61, R62, R81 to
R86). -/

namespace Sys2Proof.Machine

/-! ## Fences (R47) -/

/-- The fences with the count of one line lowered by one. -/
def loweredFences (st : Staging) (line : Nat) : List (Nat × Nat) :=
  if fenceCount st line ≤ 1 then tableErase st.fences line else tableSet st.fences line (fenceCount st line - 1)

theorem lowerFence_eq (s : State) (line : Nat) :
    s.lowerFence line = s.setStaging { s.staging with fences := loweredFences s.staging line } := rfl

theorem loweredFences_lowered (st : Staging) (line : Nat) : FenceLowered st line (loweredFences st line) := by
  intro l
  unfold fenceCount loweredFences
  by_cases hl : l = line
  · subst hl
    split
    next hn =>
      rw [tableGet_tableErase, if_pos rfl, if_pos rfl]
      exact (Nat.sub_eq_zero_of_le hn).symm
    next =>
      rw [tableGet_tableSet, if_pos rfl, if_pos rfl]
      rfl
  · split
    · rw [tableGet_tableErase, if_neg hl, Nat.sub_zero]
    · rw [tableGet_tableSet, if_neg hl, Nat.sub_zero]

/-! ## The outcome of a read (R51, R82) -/

/-- An outcome is handed on: before FAILED with its count, in FAILED when there is none to make (R82, R161). -/
theorem handOn_eq {s : State} {d : Delivered} (h : s.health.state ≠ .failed ∨ d.isUncorrectable = false) (block : Nat) :
    s.handOn block d = { s with
      health := { s.health with counters := outcomeCounters s.health.counters d }
      posted := s.posted ++ outcomeRequests block d } := by
  cases d with
  | clean content poison | program result =>
    simp only [State.handOn, outcomeRequests, List.append_nil]
    rfl
  | corrected bits content poison => rfl
  | uncorrectable poison =>
    have hcount := count_running (h.resolve_right nofun) countUncorrectable
    simp only [State.handOn, Delivered.correctedBits, Delivered.isUncorrectable, if_true, hcount]
    rfl

/-- The exec of the answer of a host read (R9, R81). -/
theorem exec_hostReadAnswer {s : State} {d : Delivery} (h : s.deliveredFor .hostReadAnswer = some d) :
    exec .hostReadAnswer s = .next ((s.withoutDelivery d .hostReadAnswer).hostReadAnswered d.answer).arbitrate :=
  congrArg Host.Outcome.next (deliver_eq h State.hostReadAnswered)

/-- The port and the fences when the read of the queue's head ends with a status (R81). -/
def State.readEnded (s : State) (r : ReadRecord) (rest : List ReadRecord) (status : ReadStatus) : State :=
  { s with
    staging := { s.staging with fences := loweredFences s.staging r.addr }
    host := { s.host with
      queue := rest
      responses := s.host.responses ++ [.readResult r.tag status]
      readTags := tableErase s.host.readTags r.tag } }

theorem readOutcome_running (r : ReadRecord) (d : Delivered) : readOutcome false r d =
    if d.isUncorrectable = true ∨ d.poison = true then .poison else .ok (overlay r.coverage r.snapshot d.bytes) := by
  simp only [readOutcome, Bool.false_or, Bool.or_eq_true]

section
variable {s : State} {r : ReadRecord} {rest : List ReadRecord} (hq : s.host.queue = r :: rest) (d : Delivered)
include hq

theorem endHostRead_running (hf : s.health.state ≠ .failed) :
    s.endHostRead r d = (s.readEnded r rest (readOutcome false r d)).handOn r.block d := by
  simp only [State.endHostRead, decide_eq_false hf, Bool.false_eq_true, if_false, hq]
  rfl

theorem endHostRead_failed (hf : s.health.state = .failed) : s.endHostRead r d = s.readEnded r rest .poison := by
  simp only [State.endHostRead, decide_eq_true hf, if_true, hq]
  rfl

/-- The answer of the ISSUED record, with no request waiting (R81). -/
theorem hostReadAnswered_issued (ha : s.host.abandoned = none) (hi : r.issued = true) (hc : s.host.channel = []) :
    s.hostReadAnswered d = (s.endHostRead r d).arbitrate := by
  have hchannel : (s.endHostRead r d).host.channel = [] := by
    by_cases hf : s.health.state = .failed
    · rw [endHostRead_failed hq d hf]
      exact hc
    · rw [endHostRead_running hq d hf, handOn_eq (s := s.readEnded r rest _) (.inl hf)]
      exact hc
  simp only [State.hostReadAnswered, ha, hq, hi, if_true]
  exact settle_no_channel hchannel

end

/-- The answer of an abandoned read, with no request waiting (R85). -/
theorem hostReadAnswered_abandoned {s : State} {line : Nat} (ha : s.host.abandoned = some line) (hc : s.host.channel = [])
    (d : Delivered) : s.hostReadAnswered d = State.arbitrate { s with
      staging := { s.staging with fences := loweredFences s.staging line }
      host := { s.host with
        abandoned := none
        ready := if s.host.ready = .recovering then .opened else s.host.ready } } := by
  simp only [State.hostReadAnswered, ha]
  exact settle_no_channel (s := s.endAbandoned line) hc

/-- Settles O22: the end of the ISSUED record by `endHostRead_running` or `endHostRead_failed`, that of an abandoned read by
`hostReadAnswered_abandoned`. -/
theorem hostReadIsAnswered : Obligations.HostReadIsAnswered := by
  intro s d hd hc s0
  rw [exec_hostReadAnswer hd]
  refine ⟨fun r rest ha hq hi => ⟨loweredFences s.staging r.addr, loweredFences_lowered _ _, ?_⟩,
    fun line ha => ⟨loweredFences s.staging line, loweredFences_lowered _ _, ?_⟩⟩
  · intro answered status
    rw [hostReadAnswered_issued (s := s0) hq d.answer ha hi hc, arbitrate_twice]
    refine ⟨fun hf => ?_, fun hf => ?_⟩
    · rw [endHostRead_running (s := s0) hq d.answer hf, handOn_eq (s := s0.readEnded r rest _) (.inl hf), readOutcome_running]
      rfl
    · rw [endHostRead_failed (s := s0) hq d.answer hf]
      rfl
  · rw [hostReadAnswered_abandoned (s := s0) ha hc, arbitrate_twice]
    rfl

/-! ## The discard at the FAILED notice (R62) -/

/-- A free order does not look at the elements. -/
theorem freeOrder_map {α β : Type} (f : α → β) (n c : Nat) (l : List α) : freeOrder n c (l.map f) = (freeOrder n c l).map f := by
  induction n generalizing c l with
  | zero => rfl
  | succ n ih =>
    match l with
    | [] => rfl
    | [x] => rfl
    | x :: y :: rest =>
      simp only [freeOrder, List.map_cons, List.length_cons, List.length_map, List.map_append]
      rw [← List.map_cons, ← List.map_cons, List.getElem?_map, List.eraseIdx_map, ih, Option.toList_map]

/-- Every entry leaves the buffer with its tags answered MEDIA_FAIL, and every record completes FAIL, in the orders that the model's free
choices give (R62, log 15). -/
theorem discardAll_eq (s : State) :
    let entries := freeOrder s.staging.entries.length s.freeCount s.staging.entries
    let records := freeOrder s.staging.hostSlots.length (s.freeCount + s.staging.entries.length) s.staging.hostSlots
    s.discardAll = { s with
      staging := { s.staging with entries := [], hostSlots := [], flushSlot := none }
      host := freeBarriers (freeWrites s.host .mediaFail (entries.flatMap (·.tags)))
        (records.map fun r => { r with failFlag := true })
      log := if s.staging.entries = [] then s.log
        else appendRecord s.log { kind := .dataDiscarded, value := s.staging.entries.length }
      posted := s.posted ++ if s.staging.flushSlot.isSome then [.longCommandEnding .flush .dataLost 0] else []
      freeCount := s.freeCount + s.staging.entries.length + s.staging.hostSlots.length } := by
  intro entries records
  have hlog : s.discardAll = State.examineBarriers { s with
      staging := flagAll { s.staging with entries := [] }
      host := freeWrites s.host .mediaFail (entries.flatMap (·.tags))
      log := if s.staging.entries = [] then s.log
        else appendRecord s.log { kind := .dataDiscarded, value := s.staging.entries.length }
      freeCount := s.freeCount + s.staging.entries.length } := by
    simp only [State.discardAll, failTags_eq]
    by_cases hg : s.staging.entries = []
    · rw [if_pos (List.isEmpty_iff.2 hg), if_pos hg]
      rfl
    · rw [if_neg (mt List.isEmpty_iff.1 hg), if_neg hg]
      rfl
  have hflush : ((s.staging.flushSlot.map fun r => { r with failFlag := true }).map fun r =>
      Instr.longCommandEnding .flush (if r.failFlag then .dataLost else .ok) 0).toList =
        if s.staging.flushSlot.isSome then [.longCommandEnding .flush .dataLost 0] else [] := by
    cases s.staging.flushSlot <;> rfl
  rw [hlog, examineBarriers_empty rfl, ← hflush]
  simp only [flagAll, List.length_map, freeOrder_map]
  rfl

theorem discardAll_channel (s : State) : s.discardAll.host.channel = s.host.channel := by
  rw [discardAll_eq]
  rfl

/-- The exec of the buffer's notice outside a power-on reset (R62). -/
theorem exec_stagingFailedDiscard {s : State} (h : s.inReset = false) : exec .stagingFailedDiscard s = .next s.discardFirst :=
  congrArg Host.Outcome.next (handOver_eq h _ _)

/-- The discard leaves nothing to choose when no request waits. -/
theorem discardFirst_arbitrate {s : State} (hc : s.host.channel = []) : s.discardFirst.arbitrate = s.discardFirst := by
  have hchannel : (s.unpost .stagingFailedDiscard).discardAll.host.channel = [] := (discardAll_channel _).trans hc
  rw [State.discardFirst, settle_no_channel hchannel, arbitrate_twice]

/-! ## The drain's answers (R51 to R53, R61) -/

theorem drainEntry_eq {s : State} {op : DrainOp} (h : s.staging.drainOp = some op) :
    s.drainEntry = s.staging.entries.find? fun e => decide (e.order = op.order) := by
  simp only [State.drainEntry, h]

/-- The buffer without an operation in progress. -/
def State.drainEnded (s : State) : State := s.setStaging { s.staging with drainOp := none }

/-- The exec of the answer of a read-modify-write read (R9, R51). -/
theorem exec_rmwReadAnswer {s : State} {d : Delivery} (h : s.deliveredFor .rmwReadAnswer = some d) :
    exec .rmwReadAnswer s = .next ((s.withoutDelivery d .rmwReadAnswer).rmwAnswered d.answer).arbitrate :=
  congrArg Host.Outcome.next (deliver_eq h State.rmwAnswered)

section
variable {s : State} {e : Entry} {d : Delivered}

theorem rmwAnswered_gone (he : s.drainEntry = none) : s.rmwAnswered d = s.drainEnded.arbitrate := by
  simp only [State.rmwAnswered, he]
  rfl

variable (he : s.drainEntry = some e)
include he

theorem rmwAnswered_failed (hf : s.health.state = .failed) (hu : d.isUncorrectable = true) :
    s.rmwAnswered d = s.drainEnded.discardFirst := by
  simp only [State.rmwAnswered, he, hf, hu, and_self, if_true]
  rfl

variable (hf : s.health.state ≠ .failed ∨ d.isUncorrectable = false)
include hf

theorem rmwAnswered_returned (hi : e.state ≠ .issued) : s.rmwAnswered d = (s.drainEnded.handOn e.block d).arbitrate := by
  have hrun : ¬ (s.health.state = .failed ∧ d.isUncorrectable = true) := fun ⟨h, hu⟩ =>
    hf.elim (fun hf => hf h) (fun hf => Bool.false_ne_true (hf.symm.trans hu))
  simp only [State.rmwAnswered, he, if_neg hrun, if_neg hi]
  rfl

/-- The read of the ISSUED entry: the merged line is built, a poisoned one is counted and logged, and the outcome is handed on (R51). -/
theorem rmwAnswered_issued (hi : e.state = .issued) : s.rmwAnswered d = State.arbitrate (State.handOn { s with
    staging := { s.staging with
      drainOp := none
      entries := s.staging.entries.map fun f => if f.order = e.order then { f with merged := some (mergedLine e d) } else f }
    health := { s.health with
      counters := if d.isUncorrectable then countPoisoned s.health.counters else s.health.counters }
    log := if d.isUncorrectable then
        appendRecord s.log { kind := .linePoisoned, block := some e.block, line := some (offsetOf e.line), value := 0 }
      else s.log } e.block d) := by
  have hrun : ¬ (s.health.state = .failed ∧ d.isUncorrectable = true) := fun ⟨h, hu⟩ =>
    hf.elim (fun hf => hf h) (fun hf => Bool.false_ne_true (hf.symm.trans hu))
  simp only [State.rmwAnswered, he, if_neg hrun, hi, if_true]
  cases hu : d.isUncorrectable with
  | false => rfl
  | true =>
    rw [if_pos rfl, count_running]
    · rfl
    · exact hf.resolve_right (by simp [hu])

end

/-- Settles O23: the cases of the answer by whether its entry is ISSUED, has left ISSUED or is gone; in FAILED an UNCORRECTABLE one is that
of the buffer's notice (log 17). -/
theorem readModifyWriteBuildsTheMergedLine : Obligations.ReadModifyWriteBuildsTheMergedLine := by
  intro s d op hd hop s0
  have hentry : s0.drainEntry = s.staging.entries.find? fun e => decide (e.order = op.order) := drainEntry_eq (s := s0) hop
  rw [exec_rmwReadAnswer hd]
  refine ⟨fun e he hf => ⟨fun hi => ?_, fun hi => ?_⟩, fun e he hf hu hup hc => ?_, fun he => ?_⟩
  · intro merged counted
    rw [rmwAnswered_issued (s := s0) (hentry.trans he) hf hi, arbitrate_twice, handOn_eq]
    · rfl
    · exact hf
  · rw [rmwAnswered_returned (s := s0) (hentry.trans he) hf hi, arbitrate_twice, handOn_eq]
    · rfl
    · exact hf
  · rw [rmwAnswered_failed (s := s0) (hentry.trans he) hf hu, discardFirst_arbitrate (s := s0.drainEnded) hc]
    exact (exec_stagingFailedDiscard (s := s0.drainEnded) hup).symm
  · rw [rmwAnswered_gone (s := s0) (hentry.trans he), arbitrate_twice]
    rfl

/-! ## The answer of a drain program (R52, R53) -/

/-- The exec of the answer of a drain program (R9, R52). -/
theorem exec_drainProgramAnswer {s : State} {d : Delivery} (h : s.deliveredFor .drainProgramAnswer = some d) :
    exec .drainProgramAnswer s = .next ((s.withoutDelivery d .drainProgramAnswer).drainAnswered d.answer.result).arbitrate :=
  congrArg Host.Outcome.next (deliver_eq h fun s d => s.drainAnswered d.result)

theorem hasOther_eq_false (st : Staging) (e : Entry) :
    hasOther st e = false ↔ ∀ g ∈ st.entries, g.line = e.line → g.order = e.order := by
  simp [hasOther]

/-- An entry that leaves ISSUED is OPEN again when it is of the current epoch and the only one of its line (R40). -/
theorem returnedState_eq (st : Staging) (e : Entry) : returnedState st e =
    if e.epoch = st.epoch ∧ ∀ g ∈ st.entries, g.line = e.line → g.order = e.order then .opened else .sealed := by
  simp only [returnedState, hasOther_eq_false]

/-- The entries of a block after the failed program of one of them (R53). -/
theorem failEntry_eq (st : Staging) (block order : Nat) (f : Entry) : failEntry st block order f =
    if f.line / 64 ≠ block then f
    else if f.order = order then
      { f with
        state := if f.epoch = st.epoch ∧ ∀ g ∈ st.entries, g.line = f.line → g.order = f.order then .opened else .sealed
        hold := .srcFailed
        merged := none }
    else { f with hold := .srcFailed } := by
  simp only [failEntry, returnedState_eq]
  rfl

theorem examineBarriers_reloc (s : State) : s.examineBarriers.reloc = s.reloc := by
  rw [examineBarriers_eq]

theorem examineBarriers_channel (s : State) : s.examineBarriers.host.channel = s.host.channel := by
  rw [examineBarriers_eq]
  rfl

/-- A report to the engine in PREPARE leaves the channel. -/
theorem reportPrepare_channel (s : State) (block : Nat) (r : ProgramResult) :
    (s.reportPrepare block r).host.channel = s.host.channel := by
  unfold State.reportPrepare
  split <;> rfl

/-- The report goes to an engine that waits in PREPARE for the block (R111). -/
theorem reportPrepare_eq {s t : State} (h : t.reloc = s.reloc) (block : Nat) (r : ProgramResult) : t.reportPrepare block r =
    if s.reloc.engine = .prepare ∧ s.reloc.isMigrating block = true then t.post (.prepareEnd r) else t := by
  rw [State.reportPrepare, h]

/-- The entry that a program wrote leaves, and its waiting tags are answered DURABLE (R52). -/
theorem freeEntry_eq (s : State) (e : Entry) : s.freeEntry e = State.examineBarriers { s with
    staging := { s.staging with entries := s.staging.entries.filter fun f => decide (f.order ≠ e.order) }
    host := freeWrites s.host .durable e.tags } := by
  simp only [State.freeEntry, answerWrites_eq]
  rfl

section
variable {s : State} {e : Entry}

theorem drainAnswered_gone (he : s.drainEntry = none) (r : ProgramResult) : s.drainAnswered r = s.drainEnded.arbitrate := by
  simp only [State.drainAnswered, he]
  rfl

variable (he : s.drainEntry = some e)
include he

theorem drainAnswered_done (hc : s.host.channel = []) :
    s.drainAnswered .done = ((s.drainEnded.freeEntry e).reportPrepare e.block .done).arbitrate := by
  have hchannel : ((s.drainEnded.freeEntry e).reportPrepare e.block .done).host.channel = [] := by
    rw [reportPrepare_channel, freeEntry_eq, examineBarriers_channel]
    exact hc
  simp only [State.drainAnswered, he]
  exact settle_no_channel hchannel

theorem drainAnswered_fail (hf : s.health.state ≠ .failed) : s.drainAnswered .fail =
    ((State.reportPrepare { s.drainEnded with
        staging := { s.drainEnded.staging with
          entries := s.staging.entries.map (failEntry s.drainEnded.staging e.block e.order) }
        health := { s.health with counters := countProgramFailure s.health.counters } } e.block .fail).post
      (.relocRequest e.block .programFail)).arbitrate := by
  simp only [State.drainAnswered, he, if_neg hf]
  rw [count_running]
  · rfl
  · exact hf

theorem drainAnswered_failed (hf : s.health.state = .failed) : s.drainAnswered .fail = s.drainEnded.discardFirst := by
  simp only [State.drainAnswered, he, if_pos hf]
  rfl

end

/-- Settles O24: DONE by `drainAnswered_done`, FAIL by `drainAnswered_fail`, and in FAILED a FAIL is the buffer's notice (log 17). -/
theorem drainProgramFreesOrHoldsTheEntry : Obligations.DrainProgramFreesOrHoldsTheEntry := by
  intro s d op result hd ha hop hc s0
  have hentry : s0.drainEntry = s.staging.entries.find? fun e => decide (e.order = op.order) := drainEntry_eq (s := s0) hop
  have hresult : d.answer.result = result := by rw [ha]; rfl
  rw [exec_drainProgramAnswer hd, hresult]
  refine ⟨fun e he => ?_, fun he => ?_⟩
  · intro told
    refine ⟨?_, ?_, ?_⟩
    · rintro rfl
      rw [drainAnswered_done (s := s0) (hentry.trans he) hc, arbitrate_twice, freeEntry_eq,
        reportPrepare_eq (s := s)]
      · rfl
      · exact examineBarriers_reloc _
    · rintro rfl hf t
      rw [drainAnswered_fail (s := s0) (hentry.trans he) hf, arbitrate_twice, reportPrepare_eq (s := s) (by rfl)]
      rw [funext (failEntry_eq s0.drainEnded.staging e.block e.order)]
      rfl
    · rintro rfl hf hup
      rw [drainAnswered_failed (s := s0) (hentry.trans he) hf, discardFirst_arbitrate (s := s0.drainEnded) hc]
      exact (exec_stagingFailedDiscard (s := s0.drainEnded) hup).symm
  · rw [drainAnswered_gone (s := s0) (hentry.trans he), arbitrate_twice]
    rfl

end Sys2Proof.Machine
end

section
/-! SUPPORT. The age deadline, the mark of a migrating block, the end of PREPARE and the release, and the FAILED notices (R48, R54, R55, R86,
R98, R111, R116, R123, R138, R143, R154). -/

namespace Sys2Proof.Machine

/-! ## The age deadline (R48) -/

theorem exec_ageDeadlineExpiry {order : Nat} {s : State} (h : ∃ e ∈ s.staging.entries, e.order = order) :
    exec (.ageDeadlineExpiry order) s = .next (s.setStaging (passAge s.staging order)).arbitrate := by
  have hany : (s.staging.entries.any fun e => decide (e.order = order)) = true := by simpa using h
  exact congrArg Host.Outcome.next (if_pos hany)

theorem exec_ageDeadlineExpiry_none {order : Nat} {s : State} (h : ∀ e ∈ s.staging.entries, e.order ≠ order) :
    exec (.ageDeadlineExpiry order) s = .next s := by
  have hany : ¬ (s.staging.entries.any fun e => decide (e.order = order)) = true := by simpa using h
  exact congrArg Host.Outcome.next (if_neg hany)

/-- Settles O37: with its entry the expiry is `passAge`, and an age that has passed makes an entry eligible. -/
theorem ageDeadlineMakesTheEntryEligible : Obligations.AgeDeadlineMakesTheEntryEligible := fun _ _ =>
  ⟨fun h => ⟨exec_ageDeadlineExpiry h, fun _ _ _ => (eligible_iff _ _).2 (.inr (.inl rfl))⟩, exec_ageDeadlineExpiry_none⟩

/-! ## The mark (R54) -/

/-- An entry when its block is marked migrating (R54, log 38). -/
theorem markEntry_eq (st : Staging) (block : Nat) (f : Entry) : markEntry st block f =
    if f.line / 64 ≠ block ∨ f.hold = .srcFailed ∨
        f.state = .issued ∧ st.drainOp = some { order := f.order, kind := .program } then f
    else if f.state = .issued then
      { f with
        state := if f.epoch = st.epoch ∧ ∀ g ∈ st.entries, g.line = f.line → g.order = f.order then .opened else .sealed
        hold := .migrating
        merged := none }
    else { f with hold := .migrating } := by
  simp only [markEntry, programming, returnedState_eq, Bool.and_eq_true, decide_eq_true_eq]
  rfl

/-! ## The end of PREPARE and the release (R111, R116) -/

theorem endPrepare_running {s : State} {x : RelocRecord} (he : s.reloc.engine = .prepare) (hrun : s.relocStopped = false)
    (hx : s.reloc.record = some x) (result : ProgramResult) : s.endPrepare result =
      (s.setReloc { s.reloc with
        engine := .copy
        record := some { x with srcFailed := x.srcFailed || decide (result = .fail) } }).arbitrate := by
  rw [State.endPrepare, if_pos ⟨he, hrun⟩, hx]

/-- The release of a completed relocation: the holds go, RELOC_DONE is appended and counted, and the engine is IDLE (R116, R55). -/
theorem releaseDone_running {s : State} {x : RelocRecord} {sp : Nat} (he : s.reloc.engine = .release) (hn : s.reloc.failed = false)
    (hf : s.health.state ≠ .failed) (hx : s.reloc.record = some x) (hsp : x.spare = some sp) :
    s.releaseDone = State.arbitrate { s with
      staging := releaseHolds s.staging x.block
      log := appendRecord s.log
        { kind := .relocDone, block := some x.block, spare := some sp, cause := some x.cause, value := x.poisoned }
      health := { s.health with counters := countRelocation s.health.counters }
      reloc := { s.reloc with engine := .idle, record := none, stepOut := false }
      posted := s.posted ++ (if x.byManagement then [.longCommandEnding .relocateBlock .relocated sp] else []) ++
        (if s.reloc.urgent = [] ∧ s.reloc.normal = [] then [] else [.engineTakeHead]) } := by
  simp only [State.releaseDone, relocStopped_eq_false.2 ⟨hn, hf⟩, he, hx, hsp, Bool.false_eq_true, if_false, endRelocate_eq,
    State.engineIdle]
  rw [count_running, callEngine_idle]
  · rfl
  · rfl
  · exact hf
  · exact hf

/-- Settles O40: the mark entry by entry by `markEntry_eq`, the end of PREPARE and the release by the cases above. The engine's taking of
the next head is a step of its own, posted (log 7). -/
theorem markPrepareEndAndRelease : Obligations.MarkPrepareEndAndRelease := by
  refine ⟨fun st block => ⟨rfl, ?_⟩, fun s result x hup he hn hf hx => ?_, fun s x sp hup he hn hx hsp hf => ?_⟩
  · exact List.map_congr_left fun f _ => markEntry_eq st block f
  · have hend := endPrepare_running (s := s.without (.prepareEnd result)) he (relocStopped_eq_false.2 ⟨hn, hf⟩) hx result
    exact congrArg Host.Outcome.next ((handOver_eq hup _ _).trans hend)
  · have hdone := releaseDone_running (s := s.without .relocationRelease) he hn hf hx hsp
    exact congrArg Host.Outcome.next ((handOver_eq hup _ _).trans hdone)

/-! ## The FAILED notices -/

/-- Lowering a line's fence once for each of some reads (R86). -/
theorem lowerFences_fences (s : State) (l : List ReadRecord) : ∃ fences,
    s.lowerFences l = s.setStaging { s.staging with fences := fences } ∧
      ∀ line, fenceCount { s.staging with fences := fences } line =
        fenceCount s.staging line - (l.filter fun r => decide (r.addr = line)).length := by
  induction l generalizing s with
  | nil => exact ⟨s.staging.fences, rfl, fun _ => rfl⟩
  | cons r rest ih =>
    obtain ⟨fences, hs, hcount⟩ := ih (s.lowerFence r.addr)
    refine ⟨fences, hs, fun line => (hcount line).trans ?_⟩
    have hone : fenceCount (s.lowerFence r.addr).staging line = fenceCount s.staging line - if line = r.addr then 1 else 0 := by
      rw [lowerFence_eq]
      exact loweredFences_lowered s.staging r.addr line
    rw [hone, List.filter_cons]
    by_cases hl : r.addr = line
    · simp [hl]; omega
    · simp [hl, Ne.symm hl]

/-- The port's notice: every QUEUED record is answered POISON and lowers its fence; an ISSUED one stays (R86). -/
theorem failHostPort_eq (s : State) :
    let queued := s.host.queue.filter fun r => !r.issued
    s.failHostPort = (s.lowerFences queued).setHost
      { freeReads s.host (fun _ => .poison) (queued.map (·.tag)) with queue := s.host.queue.filter fun r => r.issued } := by
  intro queued
  simp only [State.failHostPort, Changes.poisonQueued_eq]
  rfl

theorem failHostPort_channel (s : State) : s.failHostPort.host.channel = s.host.channel := by
  rw [failHostPort_eq]
  rfl

/-- Taking a notice leaves the endings that are posted. -/
theorem awaitsEnding_erase {posted : List Instr} {a : Instr} (ha : isEnding a = false) {code : LongCode} {r : LongRecord} :
    AwaitsEnding (posted.erase a) code r ↔ AwaitsEnding posted code r := by
  have hmem (result : LongResult) (spare : Nat) : Instr.longCommandEnding code result spare ∈ posted.erase a ↔
      Instr.longCommandEnding code result spare ∈ posted :=
    List.mem_erase_of_ne fun h => absurd ((congrArg isEnding h).trans ha) nofun
  simp only [AwaitsEnding, hmem]

section
variable {s : State} (hup : s.inReset = false)
include hup

/-- The buffer's notice with no request waiting (R62). -/
theorem exec_stagingFailedDiscard_settled (hc : s.host.channel = []) :
    exec .stagingFailedDiscard s = .next (s.without .stagingFailedDiscard).discardAll.arbitrate :=
  (exec_stagingFailedDiscard hup).trans (congrArg Host.Outcome.next (settle_no_channel ((discardAll_channel _).trans hc)))

/-- The port's notice with no request waiting (R86). -/
theorem exec_hostPortFailed (hc : s.host.channel = []) :
    exec .hostPortFailed s = .next (s.without .hostPortFailed).failHostPort.arbitrate :=
  congrArg Host.Outcome.next ((handOver_eq hup _ _).trans (settle_no_channel ((failHostPort_channel _).trans hc)))

/-- The notice of the relocation queue and engine (R123). -/
theorem exec_relocationFailed : exec .relocationFailed s = .next (State.failLong
    { s.without .relocationFailed with reloc := { s.reloc with failed := true } } .relocateBlock) :=
  congrArg Host.Outcome.next (handOver_eq hup _ _)

/-- The notice of the commit unit (R138). -/
theorem exec_commitUnitStop : exec .commitUnitStop s = .next (State.failCommitCommand
    { s.without .commitUnitStop with commit := { s.commit with stopped := true } }) :=
  congrArg Host.Outcome.next (handOver_eq hup _ _)

end

/-- The port after the buffer's discard: MEDIA_FAIL for every waiting tag, FAIL for every record (R62). -/
theorem freeBarriers_flagged (h : HostPort) (entries : List Entry) (records : List BarrierRecord) :
    freeBarriers (freeWrites h .mediaFail (entries.flatMap (·.tags))) (records.map fun r => { r with failFlag := true }) = { h with
      responses := h.responses ++ (entries.flatMap fun e => e.tags.map fun t => Response.writeAck t .mediaFail) ++
        records.map fun r => Response.barrierDone r.tag .fail
      writeTags := (entries.flatMap fun e => e.tags).foldl tableErase h.writeTags
      barrierTags := (records.map fun r => r.tag).foldl tableErase h.barrierTags } := by
  simp only [freeBarriers, freeWrites, List.map_flatMap, List.map_map]
  rfl

/-- The scanner's notice: the timer stops and an unissued offer is withdrawn (R154). -/
theorem haltPatrol_eq (p : Patrol) :
    haltPatrol p = { p with timer := none, outstanding := p.outstanding.filter fun r => r.issued } := by
  unfold haltPatrol
  cases p.outstanding with
  | none => rfl
  | some r => cases hr : r.issued <;> simp [Option.filter_some, hr]

/-- Settles O47: each notice is its block's own operation, and the two that end a long command end the one that waits (`AwaitsEnding`). -/
theorem failedNoticesStopEveryBlock : Obligations.FailedNoticesStopEveryBlock := by
  intro s hup hc
  refine ⟨?buffer, ?port, congrArg Host.Outcome.next (handOver_eq hup _ _), fun h => ⟨?_, ?_⟩, ?waiting, ?patrol,
    fun h => ?_, fun h => ?_⟩
  case buffer =>
    refine ⟨_, _, freeOrder_perm _ s.freeCount _ (Nat.le_refl _),
      freeOrder_perm _ (s.freeCount + s.staging.entries.length) _ (Nat.le_refl _), ?_⟩
    rw [exec_stagingFailedDiscard_settled hup hc, discardAll_eq, freeBarriers_flagged]
    rfl
  case port =>
    obtain ⟨fences, hlower, hcount⟩ := lowerFences_fences (s.without .hostPortFailed) (s.host.queue.filter fun r => !r.issued)
    refine ⟨fences, hcount, ?_⟩
    have hport := (failHostPort_eq (s.without .hostPortFailed)).trans (congrArg (State.setHost · _) hlower)
    rw [exec_hostPortFailed hup hc, hport, freeReads, List.map_map]
    rfl
  case waiting =>
    intro r hr he waits ended relocFailed commitStopped
    have hreloc : waits [.relocateBlock] ↔ AwaitsEnding relocFailed.posted .relocateBlock r := by
      rw [show relocFailed.posted = s.posted.erase .relocationFailed from rfl, awaitsEnding_erase rfl]
      constructor
      · rintro ⟨hcode, hp⟩
        have hcode := List.mem_singleton.1 hcode
        exact ⟨hcode, he, hcode ▸ hp⟩
      · rintro ⟨hcode, _, hp⟩
        exact ⟨List.mem_singleton.2 hcode, hcode ▸ hp⟩
    have hcommit : waits [.setLimit, .setConfig] ↔
        AwaitsEnding commitStopped.posted .setLimit r ∨ AwaitsEnding commitStopped.posted .setConfig r := by
      rw [show commitStopped.posted = s.posted.erase .commitUnitStop from rfl, awaitsEnding_erase rfl, awaitsEnding_erase rfl,
        ← awaitsCommit_iff]
      simp only [waits, he, true_and, List.mem_cons, List.not_mem_nil, or_false]
    rw [exec_relocationFailed hup, exec_commitUnitStop hup]
    refine ⟨fun h => ?_, fun h => ?_, fun h => ?_, fun h => ?_⟩
    · exact congrArg Host.Outcome.next (failLong_waiting hr (hreloc.1 h))
    · refine congrArg Host.Outcome.next (failLong_other fun q hq hw => h (hreloc.2 ?_))
      cases hr.symm.trans hq
      exact hw
    · exact congrArg Host.Outcome.next (failCommitCommand_one hr (hcommit.1 h))
    · refine congrArg Host.Outcome.next (failCommitCommand_none (fun q hq hw => h (hcommit.2 (.inl ?_)))
        fun q hq hw => h (hcommit.2 (.inr ?_)))
      all_goals
        cases hr.symm.trans hq
        exact hw
  case patrol =>
    rw [← haltPatrol_eq]
    exact congrArg Host.Outcome.next (handOver_eq hup _ _)
  · rw [exec_relocationFailed hup]
    exact congrArg Host.Outcome.next (failLong_other fun q hq hw => h q hq hw.2.1)
  · rw [exec_commitUnitStop hup]
    exact congrArg Host.Outcome.next
      (failCommitCommand_none (fun q hq hw => h q hq hw.2.1) fun q hq hw => h q hq hw.2.1)
  · exact congrArg Host.Outcome.next ((handOver_eq hup _ _).trans (if_pos h))
  · exact congrArg Host.Outcome.next ((handOver_eq hup _ _).trans (if_neg h))

end Sys2Proof.Machine
end

section
/-! SUPPORT. The configuration items of SET_CONFIG (R179, Table 10-4, R63, R94, R153). -/

namespace Sys2Proof.Machine

/-! ## SET_CONFIG of an item (R179) -/

section
variable {s : State} {seq : Byte} {params : List Byte} {item low high : Nat} {store : Settings → Nat → Settings}
  {apply : State → Nat → State}

theorem setConfig_refused (h : paramByte params 0 ≠ item ∨ 1 < paramByte params 1 ∨ paramNat params 2 2 < low ∨
    high < paramNat params 2 2) : s.setConfig seq params item low high store apply = s.refuse .badParam := by
  simp only [State.setConfig, if_pos h]

/-- The state after an item was set to `v` at its owner, which leaves `u`, was answered: volatile, or persistent with a commit (R179). -/
def State.configured (u : State) (seq : Byte) (persistent : Bool) (config : Settings) : State :=
  if persistent then
    { u with
      commit := { u.commit with config := config }
      posted := (u.posted.filter fun c => !isEnding c) ++ [.commitRequest .link]
      link := { u.link with
        long := some { code := .setConfig, seq := seq, ended := none, spare := 0 }
        lastSeq := some seq
        cached := responseFrame .pending seq []
        readable := .cached } }
  else u.answered seq .ok []

/-- The parameters of a SET_CONFIG frame that sets an item to a value. -/
def configParams (item : Nat) (persistent : Bool) (v : Nat) : List Byte :=
  [BitVec.ofNat 8 item, BitVec.ofNat 8 (if persistent then 1 else 0), BitVec.ofNat 8 v, BitVec.ofNat 8 (v / 256)]

theorem configParams_value (item : Nat) (persistent : Bool) {v : Nat} (h : v < 65536) :
    paramNat (configParams item persistent v) 2 2 = v := by
  simp only [configParams, paramNat, List.drop_succ_cons, List.drop_zero, List.take_succ_cons, List.take_zero, leNat,
    BitVec.toNat_ofNat]
  omega

/-- An item in its range is set after CONFIG_CHANGED is appended (R179). -/
theorem setConfig_sets {persistent : Bool} {v : Nat} (hitem : item < 256) (hlow : low ≤ v) (hhigh : v ≤ high) (hv : v < 65536)
    {u : State} (hu : apply (s.append
      { kind := .configChanged, value := item + 256 * (if persistent then 1 else 0) + 65536 * v }) v = u) (hc : u.commit.config = s.commit.config) :
    (s.setConfig seq (configParams item persistent v) item low high store apply).finish seq =
      u.configured seq persistent (store s.commit.config v) := by
  have hval := configParams_value item persistent hv
  have hit : paramByte (configParams item persistent v) 0 = item := by
    simp only [configParams, paramByte, List.getD_cons_zero, BitVec.toNat_ofNat]
    omega
  have hflag : paramByte (configParams item persistent v) 1 = if persistent then 1 else 0 := by cases persistent <;> rfl
  have hok : ¬ (item ≠ item ∨ 1 < (if persistent then 1 else 0) ∨ v < low ∨ high < v) := by
    cases persistent <;> simp <;> omega
  rw [← hc]
  subst hu
  simp only [State.setConfig, hval, hit, hflag, if_neg hok]
  cases persistent <;> rfl

end

section
variable {s : State} {seq : Byte} (hs : s.Hears seq) (hf : s.health.state ≠ .failed) (hp : s.pendingLong = none)
include hs hf hp

/-- A SET_CONFIG frame that passes the checks of Table 10-1 (R171). -/
theorem setConfig_frame {params : List Byte} (hlen : params.length = 4) (item low high : Nat) (store : Settings → Nat → Settings)
    (apply : State → Nat → State) :
    (Host.Outcome.next (s.takeFrame .setConfig seq params fun s => s.setConfig seq params item low high store apply) :
      Host.Outcome State Fault Refusal) = .next ((s.setConfig seq params item low high store apply).finish seq) :=
  congrArg Host.Outcome.next (takeFrame_checked (c := .setConfig) hs hf hlen (.inl hp) _)

/-- The row that takes a SET_CONFIG frame: that of the frame's item, with its range (Table 10-4), or row 1 for any other item (log 19). -/
theorem exec_configRow {params : List Byte} (hlen : params.length = 4) : ∃ item low high store apply,
    exec (configRow seq params) s = .next ((s.setConfig seq params item low high store apply).finish seq) ∧
      (item = 1 ∧ low = 0 ∧ high = 1 ∨
        paramByte params 0 = item ∧ (item, low, high) ∈ [(2, 1, 63), (3, 1, 500), (4, 1, 255), (5, 0, 1), (6, 10, 10000)]) := by
  have hitem {n : Nat} (h : isItem params n = true) : paramByte params 0 = n :=
    of_decide_eq_true (Bool.and_eq_true_iff.1 h).2
  unfold configRow
  split
  next h => exact ⟨_, _, _, _, _, setConfig_frame hs hf hp hlen _ _ _ _ _, .inr ⟨hitem h, by decide⟩⟩
  split
  next h => exact ⟨_, _, _, _, _, setConfig_frame hs hf hp hlen _ _ _ _ _, .inr ⟨hitem h, by decide⟩⟩
  split
  next h => exact ⟨_, _, _, _, _, setConfig_frame hs hf hp hlen _ _ _ _ _, .inr ⟨hitem h, by decide⟩⟩
  split
  next h => exact ⟨_, _, _, _, _, setConfig_frame hs hf hp hlen _ _ _ _ _, .inr ⟨hitem h, by decide⟩⟩
  split
  next h => exact ⟨_, _, _, _, _, setConfig_frame hs hf hp hlen _ _ _ _ _, .inr ⟨hitem h, by decide⟩⟩
  exact ⟨_, _, _, _, _, setConfig_frame hs hf hp hlen _ _ _ _ _, .inl ⟨rfl, rfl, rfl⟩⟩

end

/-! ## What each owner does with its value -/

theorem arbitrate_config (s : State) : s.arbitrate.commit.config = s.commit.config := by
  have h : KeepsCommit s s.arbitrate := arbitrateFrom_keepsCommit _ s
  rw [h]

theorem requestAll_eq (s : State) (l : List WatchEntry) :
    s.requestAll l = s.setPosted (s.posted ++ l.map fun e => .relocRequest e.block .corrThreshold) := by
  induction l generalizing s with
  | nil => exact congrArg s.setPosted (List.append_nil _).symm
  | cons e rest ih =>
    rw [State.requestAll, ih]
    exact congrArg s.setPosted (List.append_assoc s.posted [_] _)

/-- A change at the scanner moves its timer only when it enters or leaves RUNNING (R147, R152, R153). -/
theorem changePatrol_eq (s : State) (p : Patrol) : s.changePatrol p = s.setPatrol { p with
    timer :=
      if s.patrolState = .running then if (s.setPatrol p).patrolState = .running then p.timer else none
      else if (s.setPatrol p).patrolState = .running then some p.interval else p.timer } := by
  unfold State.changePatrol State.stopTimer State.startTimer
  dsimp only
  split <;> split <;> rfl

/-- The timer when the enable is set or cleared (R153). -/
theorem applyPatrolEnable_eq {s : State} (hf : s.health.state ≠ .failed) {v : Nat} (hv : v ≤ 1) :
    s.applyPatrolEnable v = s.setPatrol { s.patrol with
      enable := decide (v = 1)
      timer :=
        if (s.loader.state = .ready ∧ s.patrol.control = .run) ∧ s.patrol.enable = false ∧ v = 1 then some s.patrol.interval
        else if (s.loader.state = .ready ∧ s.patrol.control = .run) ∧ s.patrol.enable = true ∧ v = 0 then none
        else s.patrol.timer } := by
  have hbefore : s.patrolState = .running ↔
      s.patrol.enable = true ∧ s.loader.state = .ready ∧ s.patrol.control = .run := by
    rw [patrolState_running_iff]
    tauto
  have hafter : (s.setPatrol { s.patrol with enable := decide (v = 1) }).patrolState = .running ↔
      v = 1 ∧ s.loader.state = .ready ∧ s.patrol.control = .run := by
    rw [patrolState_running_iff]
    simp [hf]
    tauto
  rw [State.applyPatrolEnable, changePatrol_eq]
  simp only [hbefore, hafter]
  by_cases hr : s.loader.state = .ready ∧ s.patrol.control = .run
  · obtain rfl | rfl : v = 0 ∨ v = 1 := by omega
    all_goals cases s.patrol.enable <;> simp [hr]
  · simp [hr]

/-- A change of the interval keeps the deadline in force (R153). -/
theorem applyPatrolInterval_eq (s : State) (v : Nat) :
    s.applyPatrolInterval v = s.setPatrol { s.patrol with interval := v } := by
  have hsame : (s.setPatrol { s.patrol with interval := v }).patrolState = s.patrolState := rfl
  rw [State.applyPatrolInterval, changePatrol_eq, hsame]
  split <;> rfl

/-- Settles O51: each item by `setConfig_sets` with what its owner does, the refusals by `setConfig_refused` at the frame's row. -/
theorem setConfigAppliesEachItem : Obligations.SetConfigAppliesEachItem := by
  intro s seq persistent v hs hf hp flag params logged taken config runs
  have hset {item low high : Nat} {store : Settings → Nat → Settings} {apply : State → Nat → State} (hitem : item < 256)
      (hlow : low ≤ v) (hhigh : v ≤ high) (hv : v < 65536) {u : State} (hu : apply (logged item) v = u)
      (hc : u.commit.config = s.commit.config) :
      (Host.Outcome.next (s.takeFrame .setConfig seq (params item) fun s => s.setConfig seq (params item) item low high store apply) :
        Host.Outcome State Fault Refusal) = .next (taken u (store config v)) :=
    (setConfig_frame hs hf hp rfl _ _ _ _ _).trans (congrArg Host.Outcome.next (setConfig_sets hitem hlow hhigh hv hu hc))
  refine ⟨fun h => ?mode, fun hl hh => ?threshold, fun hl hh => ?age, fun hl hh => ?correction, fun h => ?enable,
    fun hl hh => ?interval, fun a b c d => ?bad⟩
  case mode => exact hset (by decide) (Nat.zero_le v) h (by omega) rfl (arbitrate_config _)
  case threshold => exact hset (by decide) hl hh (by omega) rfl (arbitrate_config _)
  case age => exact hset (by decide) hl hh (by omega) rfl rfl
  case correction => exact hset (by decide) hl hh (by omega) (requestAll_eq _ _) rfl
  case enable => exact hset (by decide) (Nat.zero_le v) h (by omega) (applyPatrolEnable_eq (s := logged 5) hf h) rfl
  case interval => exact hset (by decide) hl hh (by omega) (applyPatrolInterval_eq (logged 6) v) rfl
  case bad =>
    intro n hbad
    obtain ⟨item, low, high, store, apply, hexec, hrow⟩ :=
      exec_configRow (params := [a, b, c, d]) hs hf hp rfl
    have hitem : paramByte [a, b, c, d] 0 = a.toNat := rfl
    have hflag : paramByte [a, b, c, d] 1 = b.toNat := rfl
    have hvalue : paramNat [a, b, c, d] 2 2 = n := rfl
    have hrefused : paramByte [a, b, c, d] 0 ≠ item ∨ 1 < paramByte [a, b, c, d] 1 ∨ paramNat [a, b, c, d] 2 2 < low ∨
        high < paramNat [a, b, c, d] 2 2 := by
      have ha (k : Byte) (m : Nat) (hk : k.toNat = m) : a = k ↔ a.toNat = m := by rw [← hk, BitVec.toNat_inj]
      rw [ha 1 1 rfl, ha 2 2 rfl, ha 3 3 rfl, ha 4 4 rfl, ha 5 5 rfl, ha 6 6 rfl] at hbad
      simp only [List.mem_cons, List.not_mem_nil, or_false, Prod.mk.injEq] at hrow
      omega
    rw [setConfig_refused hrefused, finish_refuse] at hexec
    exact hexec

end Sys2Proof.Machine
end

section
/-! SUPPORT. The long commands FLUSH, RELOCATE_BLOCK and ABORT (R59, R60, R102 to R107, R172 to R174, R183, R184). -/

namespace Sys2Proof.Machine

/-! ## The long command record (R172, R173) -/

theorem pendingLong_eq {s : State} {r : LongRecord} (hr : s.link.long = some r) (he : r.ended = none) :
    s.pendingLong = some r.code := by
  simp only [State.pendingLong, hr, he, if_true]

theorem pendingLong_none {s : State} (h : ∀ r, s.link.long = some r → r.ended ≠ none) : s.pendingLong = none := by
  unfold State.pendingLong
  split
  next r hr => exact if_neg (h r hr)
  next => rfl

/-- The ending of the PENDING command (R173). -/
theorem endLong_pending {s : State} {r : LongRecord} (hr : s.link.long = some r) (he : r.ended = none) (result : LongResult)
    (spare : Nat) : s.endLong r.code result spare =
      s.setLink { s.link with long := some { r with ended := some result, spare := spare } } := by
  simp only [State.endLong, hr, he, and_self, if_true]

/-! ## One entry of a queue's class -/

section
variable {before after : List QueueEntry} {e : QueueEntry}

theorem filter_block_entry (h : ∀ f ∈ before ++ after, f.block ≠ e.block) :
    ((before ++ e :: after).filter fun f => f.block != e.block) = before ++ after := by
  obtain ⟨hb, ha⟩ := List.forall_mem_append.1 h
  have hkeep {l : List QueueEntry} (hl : ∀ f ∈ l, f.block ≠ e.block) : (l.filter fun f => f.block != e.block) = l :=
    List.filter_eq_self.2 fun f hf => bne_iff_ne.2 (hl f hf)
  rw [List.filter_append, List.filter_cons_of_neg (by simp), hkeep hb, hkeep ha]

theorem map_block_other {l : List QueueEntry} {block : Nat} (h : ∀ f ∈ l, f.block ≠ block) (g : QueueEntry → QueueEntry) :
    (l.map fun f => if f.block = block then g f else f) = l :=
  (List.map_congr_left fun f hf => if_neg (h f hf)).trans (List.map_id l)

theorem map_block_entry {block : Nat} (he : e.block = block) (h : ∀ f ∈ before ++ after, f.block ≠ block)
    (g : QueueEntry → QueueEntry) :
    ((before ++ e :: after).map fun f => if f.block = block then g f else f) = before ++ g e :: after := by
  obtain ⟨hb, ha⟩ := List.forall_mem_append.1 h
  rw [List.map_append, List.map_cons, map_block_other hb, map_block_other ha, if_pos he]

theorem find_entry {p : QueueEntry → Bool} (he : p e = true) (h : ∀ f ∈ before, p f = false) :
    (before ++ e :: after).find? p = some e :=
  List.find?_eq_some_iff_append.2 ⟨he, before, after, rfl, fun f hf => by simp [h f hf]⟩

theorem find_none {l : List QueueEntry} {p : QueueEntry → Bool} (h : ∀ f ∈ l, p f = false) : l.find? p = none :=
  List.find?_eq_none.2 fun f hf => by simp [h f hf]

end

/-! ## ABORT (R174, R60, R107) -/

/-- An ABORT frame passes the checks of Table 10-1, a PENDING command or not (R171). -/
theorem exec_abort {s : State} {seq : Byte} (hs : s.Hears seq) (hf : s.health.state ≠ .failed) :
    exec (.abort seq []) s = .next (s.abortLong.finish seq) :=
  congrArg Host.Outcome.next (takeFrame_checked (c := .abort) hs hf rfl (.inr rfl) _)

/-- The queued entry that carries the command: in the normal class when no urgent entry does (R122). -/
theorem managementEntry_normal {r : Reloc} {before after : List QueueEntry} {e : QueueEntry} (hn : r.normal = before ++ e :: after)
    (he : e.byManagement = true) (h : ∀ f ∈ r.urgent ++ before, f.byManagement = false) : managementEntry r = some e := by
  obtain ⟨hu, hb⟩ := List.forall_mem_append.1 h
  simp only [managementEntry, find_none hu, hn, find_entry he hb]

theorem managementEntry_urgent {r : Reloc} {before after : List QueueEntry} {e : QueueEntry} (hu : r.urgent = before ++ e :: after)
    (he : e.byManagement = true) (h : ∀ f ∈ before, f.byManagement = false) : managementEntry r = some e := by
  simp only [managementEntry, hu, find_entry he h]

section
variable {s : State} {r : LongRecord}

theorem abortLong_none (h : s.pendingLong = none) : s.abortLong = s.refuse .refused := by
  simp only [State.abortLong, h]

theorem abortLong_persistent {c : LongCode} (h : s.pendingLong = some c) (hc : c = .setLimit ∨ c = .setConfig) :
    s.abortLong = s.refuse .refused := by
  rcases hc with rfl | rfl <;> simp only [State.abortLong, h]

theorem abortLong_flush (h : s.pendingLong = some .flush) : s.abortLong =
    ((s.setStaging { s.staging with flushSlot := none }).endLong .flush .aborted 0).inform [] := by
  simp only [State.abortLong, h]

theorem recordByManagement_iff (x : Reloc) : recordByManagement x = true ↔ ∃ q, x.record = some q ∧ q.byManagement = true := by
  unfold recordByManagement
  cases x.record <;> simp

variable (h : s.pendingLong = some .relocateBlock)
include h

theorem abortLong_inFlight {x : RelocRecord} (hx : s.reloc.record = some x) (hm : x.byManagement = true) :
    s.abortLong = s.refuse .refused := by
  have hrec : recordByManagement s.reloc = true := (recordByManagement_iff _).2 ⟨x, hx, hm⟩
  simp only [State.abortLong, h, hrec, if_true]

theorem abortLong_queued (hx : ∀ x, s.reloc.record = some x → x.byManagement = false) {e : QueueEntry}
    (he : managementEntry s.reloc = some e) :
    s.abortLong = ((s.setReloc (abortQueued s.reloc e)).endLong .relocateBlock .aborted 0).inform [] := by
  have hrec : ¬ recordByManagement s.reloc = true := by
    rw [recordByManagement_iff]
    rintro ⟨q, hq, hm⟩
    exact Bool.false_ne_true ((hx q hq).symm.trans hm)
  simp only [State.abortLong, h, if_neg hrec, he]

end

/-- The entry of a normal class goes when its cause is MANAGEMENT, and becomes internal when it is not (R107). -/
theorem abortQueued_normal {r : Reloc} {before after : List QueueEntry} {e : QueueEntry} (hn : r.normal = before ++ e :: after)
    (h : ∀ f ∈ r.urgent ++ before ++ after, f.block ≠ e.block) : abortQueued r e =
      { r with normal := before ++ (if e.cause = .management then [] else [{ e with byManagement := false }]) ++ after } := by
  rw [List.append_assoc] at h
  obtain ⟨hu, hrest⟩ := List.forall_mem_append.1 h
  have hkeep : (r.urgent.filter fun f => f.block != e.block) = r.urgent :=
    List.filter_eq_self.2 fun f hf => bne_iff_ne.2 (hu f hf)
  unfold abortQueued
  split
  · rw [hn, filter_block_entry hrest, hkeep, List.append_nil]
  · rw [hn, map_block_entry rfl hrest, map_block_other hu, List.append_assoc, List.singleton_append]

/-- An urgent entry of an internal cause becomes internal (R107). -/
theorem abortQueued_urgent {r : Reloc} {before after : List QueueEntry} {e : QueueEntry} (hu : r.urgent = before ++ e :: after)
    (h : ∀ f ∈ before ++ after ++ r.normal, f.block ≠ e.block) (hc : e.cause ≠ .management) :
    abortQueued r e = { r with urgent := before ++ { e with byManagement := false } :: after } := by
  obtain ⟨hrest, hn⟩ := List.forall_mem_append.1 h
  rw [abortQueued, if_neg hc, hu, map_block_entry rfl hrest, map_block_other hn]

/-- Settles O55: the cases of `abortLong` by the PENDING command, a queued relocation's by `abortQueued_normal` and
`abortQueued_urgent`. -/
theorem abortEndsAFlushOrAQueuedRelocation : Obligations.AbortEndsAFlushOrAQueuedRelocation := by
  intro s seq hs hf run
  have hrun : run = .next (s.abortLong.finish seq) := exec_abort hs hf
  rw [hrun]
  refine ⟨fun h => ?_, fun r hr he => ?_⟩
  · rw [abortLong_none (pendingLong_none h), finish_refuse]
  · intro aborted
    have hpending := pendingLong_eq hr he
    refine ⟨fun hc => ?_, fun hc => ?_, fun hc => ?_⟩
    · rw [abortLong_persistent hpending hc, finish_refuse]
    · rw [abortLong_flush (hpending.trans (congrArg some hc)), ← hc, endLong_pending (r := r) (by exact hr) he]
      rfl
    · have hreloc := hpending.trans (congrArg some hc)
      have hqueued {e : QueueEntry} (hx : ∀ x, s.reloc.record = some x → x.byManagement = false)
          (hm : managementEntry s.reloc = some e) :
          s.abortLong.finish seq = aborted { s with reloc := abortQueued s.reloc e } := by
        rw [abortLong_queued hreloc hx hm, ← hc, endLong_pending (r := r) (by exact hr) he]
        rfl
      refine ⟨fun x hx hm => ?_, fun hx => ⟨fun before e after hn hm h => ?_, fun before e after hu hm h hcause => ?_⟩⟩
      · rw [abortLong_inFlight hreloc hx hm, finish_refuse]
      · have hentry := managementEntry_normal hn hm fun f hmem => (h f (List.mem_append_left after hmem)).1
        rw [hqueued hx hentry, abortQueued_normal hn fun f hmem => (h f hmem).2]
      · have hentry := managementEntry_urgent hu hm fun f hmem =>
          (h f (List.mem_append_left _ (List.mem_append_left _ hmem))).1
        rw [hqueued hx hentry, abortQueued_urgent hu (fun f hmem => (h f hmem).2) hcause]

end Sys2Proof.Machine
end

section
/-! SUPPORT. The queue's answer to a request (R102 to R104), what the arbiter leaves at the link and in the staging buffer, and the long
commands FLUSH and RELOCATE_BLOCK (R59, R172, R183, R184). -/

namespace Sys2Proof.Machine

/-! ## A relocation request at the queue (R102) -/

section
variable {s : State} {block : Nat} (hrun : s.relocStopped = false) (hload : s.loader.isLoading = false) (hb : block < s.xlat.nb)
include hrun hload hb

theorem takeRelocRequest_lost (hl : block ∈ s.xlat.lost) (cause : RelocCause) :
    s.takeRelocRequest block cause = s.endRelocate (decide (cause = .management)) .lost 0 := by
  have hok : ¬ (s.relocStopped = true ∨ s.loader.isLoading = true ∨ s.xlat.nb ≤ block) := by
    simp [hrun, hload, hb]
  rw [State.takeRelocRequest, if_neg hok, if_pos ((isLost_iff _ _).2 hl)]

variable (hl : block ∉ s.xlat.lost)
include hl

theorem takeRelocRequest_inFlight {x : RelocRecord} (hx : s.reloc.record = some x) (hxb : x.block = block) (cause : RelocCause) :
    s.takeRelocRequest block cause = s.requestMigrating x cause := by
  have hok : ¬ (s.relocStopped = true ∨ s.loader.isLoading = true ∨ s.xlat.nb ≤ block) := by
    simp [hrun, hload, hb]
  rw [State.takeRelocRequest, if_neg hok, if_neg (mt (isLost_iff _ _).1 hl), hx]
  exact if_pos hxb

variable (hx : ∀ x, s.reloc.record = some x → x.block ≠ block)
include hx

/-- A request for a block that is not in flight merges into the block's entry, or asks for a new one (R103). -/
theorem takeRelocRequest_waiting (cause : RelocCause) : s.takeRelocRequest block cause =
    if s.reloc.isQueued block then s.mergeRequest block cause
    else if isUrgent cause then s.urgentRequest block cause
    else s.normalRequest block cause := by
  have hok : ¬ (s.relocStopped = true ∨ s.loader.isLoading = true ∨ s.xlat.nb ≤ block) := by
    simp [hrun, hload, hb]
  rw [State.takeRelocRequest, if_neg hok, if_neg (mt (isLost_iff _ _).1 hl)]
  cases hr : s.reloc.record with
  | none => rfl
  | some x => exact if_neg (hx x hr)

end

/-- The queue with a new entry at the tail of its cause's class (R104, R105). -/
def joinQueue (r : Reloc) (block : Nat) (cause : RelocCause) : Reloc :=
  if isUrgent cause then
    { r with urgent := r.urgent ++ [{ block := block, cause := cause, byManagement := decide (cause = .management) }] }
  else { r with normal := r.normal ++ [{ block := block, cause := cause, byManagement := decide (cause = .management) }] }

theorem joinQueue_length (r : Reloc) (block : Nat) (cause : RelocCause) : (joinQueue r block cause).length = r.length + 1 := by
  unfold joinQueue Reloc.length
  split <;> simp <;> omega

theorem joinQueue_engine (r : Reloc) (block : Nat) (cause : RelocCause) : (joinQueue r block cause).engine = r.engine := by
  unfold joinQueue
  split <;> rfl

/-- A new entry is logged with the queue's length, takes the block out of the watch table, and calls an IDLE engine of an empty queue (R93,
R104, R105, R109). -/
theorem enqueue_eq {s : State} (hf : s.health.state ≠ .failed) (block : Nat) (cause : RelocCause) : s.enqueue block cause = { s with
    reloc := joinQueue s.reloc block cause
    log := appendRecord s.log
      { kind := .relocQueued, block := some block, cause := some cause, value := s.reloc.length + 1 }
    watch := forgetWatch s.watch block
    posted := s.posted ++ if s.reloc.length = 0 ∧ s.reloc.engine = .idle then [.engineTakeHead] else [] } := by
  have hjoined : s.enqueue block cause = if s.reloc.length = 0 then State.callEngine { s with
      reloc := joinQueue s.reloc block cause
      log := appendRecord s.log
        { kind := .relocQueued, block := some block, cause := some cause, value := (joinQueue s.reloc block cause).length }
      watch := forgetWatch s.watch block } else { s with
      reloc := joinQueue s.reloc block cause
      log := appendRecord s.log
        { kind := .relocQueued, block := some block, cause := some cause, value := (joinQueue s.reloc block cause).length }
      watch := forgetWatch s.watch block } := by
    simp only [State.enqueue, decide_eq_true_eq]
    rfl
  rw [hjoined, joinQueue_length]
  by_cases hn : s.reloc.length = 0
  · rw [if_pos hn, State.callEngine]
    simp only [joinQueue_engine, joinQueue_length, hn, true_and, Nat.zero_lt_succ]
    by_cases hi : s.reloc.engine = .idle
    · rw [if_pos ⟨hi, hf⟩, if_pos hi]
      rfl
    · rw [if_neg (fun h => hi h.1), if_neg hi, List.append_nil]
  · rw [if_neg hn, if_neg (fun h => hn h.1), List.append_nil]

/-- A request of a normal cause merges into the block's normal entry, which keeps its place (R103). -/
theorem mergeRequest_normal {s : State} {block : Nat} {cause : RelocCause} (hu : isUrgent cause = false)
    {before after : List QueueEntry} {e : QueueEntry} (he : e.block = block) (hn : s.reloc.normal = before ++ e :: after)
    (h : ∀ f ∈ before ++ after, f.block ≠ block) :
    s.mergeRequest block cause = s.setReloc { s.reloc with normal := before ++ mergeEntry cause e :: after } := by
  have hfind : s.reloc.normal.find? (fun f => decide (f.block = block)) = some e := by
    rw [hn]
    exact find_entry (decide_eq_true he) fun f hf => decide_eq_false (h f (List.mem_append_left _ hf))
  simp only [State.mergeRequest, hfind, hu, Bool.false_eq_true, if_false]
  rw [hn, map_block_entry he h]

/-- A request merges into the block's urgent entry, which keeps its place (R103). -/
theorem mergeRequest_urgent {s : State} {block : Nat} (cause : RelocCause) {before after : List QueueEntry} {e : QueueEntry}
    (he : e.block = block) (hu : s.reloc.urgent = before ++ e :: after) (h : ∀ f ∈ before ++ after, f.block ≠ block)
    (hn : ∀ f ∈ s.reloc.normal, f.block ≠ block) :
    s.mergeRequest block cause = s.setReloc { s.reloc with urgent := before ++ mergeEntry cause e :: after } := by
  have hfind : s.reloc.normal.find? (fun f => decide (f.block = block)) = none :=
    find_none fun f hf => decide_eq_false (hn f hf)
  simp only [State.mergeRequest, hfind]
  rw [hu, map_block_entry he h]

/-- A management request for a block that waits nowhere joins the normal class below the reserve of 12 (R104). -/
theorem normalRequest_joins {s : State} (hf : s.health.state ≠ .failed) (hn : s.reloc.length < Config.normalReserve) (block : Nat) :
    s.normalRequest block .management = { s with
      reloc := { s.reloc with normal := s.reloc.normal ++ [{ block := block, cause := .management, byManagement := true }] }
      log := appendRecord s.log
        { kind := .relocQueued, block := some block, cause := some .management, value := s.reloc.length + 1 }
      watch := forgetWatch s.watch block
      posted := s.posted ++ if s.reloc.length = 0 ∧ s.reloc.engine = .idle then [.engineTakeHead] else [] } := by
  rw [State.normalRequest, if_pos hn, enqueue_eq hf]
  rfl

/-- With the normal class at its reserve the request is dropped, and the command behind it ends REFUSED (R104, R122). -/
theorem normalRequest_refused {s : State} (hn : Config.normalReserve ≤ s.reloc.length) (block : Nat) :
    s.normalRequest block .management =
      (s.dropRequest block .management 1).post (.longCommandEnding .relocateBlock .refused 0) :=
  if_neg (Nat.not_lt.2 hn)

theorem mergeEntry_management (e : QueueEntry) : mergeEntry .management e =
    { e with
      cause := if causeStrength e.cause < causeStrength .management then .management else e.cause
      byManagement := true } := by
  simp [mergeEntry]

theorem isQueued_of_mem {r : Reloc} {e : QueueEntry} (h : e ∈ r.urgent ++ r.normal) : r.isQueued e.block = true := by
  by_contra hq
  exact isQueued_eq_false.1 (Bool.eq_false_iff.2 hq) e h rfl

/-! ## Endings taken in the happening that starts the command (R172) -/

theorem takeEndings_none {s : State} (h : ∀ c ∈ s.posted, isEnding c = false) : s.takeEndings = s := by
  have hfind : s.posted.find? isEnding = none := List.find?_eq_none.2 fun c hc => by simp [h c hc]
  simp only [State.takeEndings, hfind]

/-- The one ending posted ends the PENDING command. -/
theorem takeEndings_one {s : State} {rest : List Instr} {r : LongRecord} {result : LongResult} {spare : Nat}
    (hrest : ∀ c ∈ rest, isEnding c = false) (hp : s.posted = rest ++ [.longCommandEnding r.code result spare])
    (hr : s.link.long = some r) (he : r.ended = none) : s.takeEndings = { s with
      posted := rest
      link := { s.link with long := some { r with ended := some result, spare := spare } } } := by
  have hfind : s.posted.find? isEnding = some (.longCommandEnding r.code result spare) := by
    rw [hp]
    exact List.find?_eq_some_iff_append.2 ⟨rfl, rest, [], rfl, fun c hc => by simp [hrest c hc]⟩
  have hlast : Instr.longCommandEnding r.code result spare ∉ rest := fun h => absurd (hrest _ h) nofun
  have herase : s.posted.erase (.longCommandEnding r.code result spare) = rest := by
    rw [hp, List.erase_append_right _ hlast, List.erase_cons_head, List.append_nil]
  simp only [State.takeEndings, hfind]
  rw [endLong_pending (r := r) (by exact hr) he, State.unpost, herase]
  rfl

/-- The hand-overs that are no endings. -/
def keptPosts (s : State) : List Instr := s.posted.filter fun c => !isEnding c

theorem keptPosts_not_ending (s : State) : ∀ c ∈ keptPosts s, isEnding c = false := fun c hc => by
  simpa using (List.mem_filter.1 hc).2

/-! ## What the arbiter leaves -/

section
variable (s : State) (l : Link)

theorem choice_setLink : (s.setLink l).choice = s.choice := by
  have hoffers : (s.setLink l).offers = s.offers := funext fun q => by cases q <;> rfl
  simp only [State.choice, hoffers]
  rfl

theorem issueCommit_setLink : (s.setLink l).issueCommit = s.issueCommit.setLink l := by
  unfold State.issueCommit
  rw [State.setLink_commit]
  cases s.commit.writing <;> rfl

theorem issueCopy_setLink : (s.setLink l).issueCopy = s.issueCopy.setLink l := by
  unfold State.issueCopy
  rw [State.setLink_reloc]
  cases copyOffer s.reloc with
  | none => rfl
  | some offer =>
    obtain ⟨x, src, sp⟩ := offer
    dsimp only
    cases x.buffer <;> rfl

theorem issueDrain_setLink : (s.setLink l).issueDrain = s.issueDrain.setLink l := by
  have hoffered : (s.setLink l).drainOffered = s.drainOffered := rfl
  unfold State.issueDrain
  rw [hoffered]
  cases s.drainOffered <;> rfl

theorem issuePatrol_setLink : (s.setLink l).issuePatrol = s.issuePatrol.setLink l := by
  unfold State.issuePatrol
  rw [State.setLink_patrol]
  cases s.patrol.outstanding <;> rfl

end

/-- The arbiter does not look at the link. -/
theorem arbitrateFrom_setLink (n : Nat) (s : State) (l : Link) : (s.setLink l).arbitrateFrom n = (s.arbitrateFrom n).setLink l := by
  induction n generalizing s with
  | zero => rfl
  | succ n ih =>
    unfold State.arbitrateFrom
    rw [busy_setLink, choice_setLink, State.setLink_host, State.setLink_xlat, issueCommit_setLink, issueCopy_setLink,
      issueDrain_setLink, issuePatrol_setLink]
    split
    · rfl
    · cases s.choice with
      | none => rfl
      | some q =>
        cases q with
        | hostRead =>
          dsimp only
          cases hostOffer s.host with
          | none => rfl
          | some r =>
            dsimp only
            split
            · exact ih (s.answerLostRead r)
            · rfl
        | commit | relocation | drain | patrol | loader => rfl

theorem arbitrate_setLink (s : State) (l : Link) : (s.setLink l).arbitrate = s.arbitrate.setLink l :=
  arbitrateFrom_setLink _ s l

theorem arbitrate_link (s : State) : s.arbitrate.link = s.link := by
  have h := arbitrate_setLink s s.link
  rw [State.setLink_same] at h
  rw [h]
  rfl

/-- The buffer but for which of its entries are ISSUED, and for its fences and its operation in progress: epoch and FLUSH record stay, and
entries change at most by becoming ISSUED. -/
def IssuesEntries (a x : Staging) : Prop := x.epoch = a.epoch ∧ x.flushSlot = a.flushSlot ∧
  ∃ p : Entry → Bool, x.entries = a.entries.map fun e => if p e then { e with state := .issued } else e

theorem IssuesEntries.keep {a x : Staging} (h : x.epoch = a.epoch ∧ x.flushSlot = a.flushSlot ∧ x.entries = a.entries) :
    IssuesEntries a x := by
  obtain ⟨hepoch, hflush, hentries⟩ := h
  exact ⟨hepoch, hflush, fun _ => false, by simp [hentries]⟩

theorem IssuesEntries.of_eq {a x : Staging} (h : x = a) : IssuesEntries a x := h ▸ .keep ⟨rfl, rfl, rfl⟩

/-- Issuing an operation changes no line, order, byte, mask or epoch of an entry. -/
theorem IssuesEntries.contents {a x : Staging} (h : IssuesEntries a x) :
    x.entries.map (fun e => (e.line, e.order, e.data, e.mask, e.epoch)) =
      a.entries.map fun e => (e.line, e.order, e.data, e.mask, e.epoch) := by
  obtain ⟨_, _, p, hp⟩ := h
  rw [hp, List.map_map]
  refine List.map_congr_left fun e _ => ?_
  show (fun e : Entry => (e.line, e.order, e.data, e.mask, e.epoch)) (if p e then _ else _) = _
  split <;> rfl

/-- Issuing an operation opens no entry. -/
theorem IssuesEntries.not_opened {a x : Staging} (h : IssuesEntries a x) (ha : ∀ e ∈ a.entries, e.state ≠ .opened) :
    ∀ e ∈ x.entries, e.state ≠ .opened := by
  obtain ⟨_, _, p, hp⟩ := h
  rw [hp, List.forall_mem_map]
  intro e he
  split
  · exact nofun
  · exact ha e he

theorem issueDrain_issuesEntries (s : State) : IssuesEntries s.staging s.issueDrain.staging := by
  unfold State.issueDrain
  split
  next e kind _ => exact ⟨rfl, rfl, fun f => decide (f.order = e.order), by simp only [decide_eq_true_eq]; rfl⟩
  next => exact .keep ⟨rfl, rfl, rfl⟩

theorem issueCopy_staging (s : State) : s.issueCopy.staging = s.staging := by
  unfold State.issueCopy
  split
  · split <;> rfl
  · rfl

theorem issueCommit_staging (s : State) : s.issueCommit.staging = s.staging := by
  unfold State.issueCommit
  split <;> rfl

theorem issuePatrol_staging (s : State) : s.issuePatrol.staging = s.staging := by
  unfold State.issuePatrol
  split <;> rfl

/-- The arbiter changes the buffer by issuing its offer, and by lowering the fence of a lost read that it answers. -/
theorem arbitrateFrom_issuesEntries (n : Nat) (s : State) : IssuesEntries s.staging (s.arbitrateFrom n).staging := by
  induction n generalizing s with
  | zero => exact .of_eq rfl
  | succ n ih =>
    unfold State.arbitrateFrom
    split
    · exact .of_eq rfl
    · split
      · exact .of_eq rfl
      · exact .of_eq rfl
      · exact .of_eq (issueCommit_staging s)
      · exact .of_eq (issueCopy_staging s)
      · exact issueDrain_issuesEntries s
      · exact .of_eq (issuePatrol_staging s)
      · split
        next r _ =>
          split
          · exact ih (s.answerLostRead r)
          · exact .of_eq rfl
        next => exact .of_eq rfl

theorem arbitrate_issuesEntries (s : State) : IssuesEntries s.staging s.arbitrate.staging := arbitrateFrom_issuesEntries _ s

/-! ## FLUSH (R59, R183) -/

section
variable {s : State} {seq : Byte} (hs : s.Hears seq) (hf : s.health.state ≠ .failed) (hp : s.pendingLong = none)
include hs hf hp

theorem exec_flush : exec (.flush seq []) s = .next ((s.startFlush seq).finish seq) :=
  congrArg Host.Outcome.next (takeFrame_checked (c := .flush) hs hf rfl (.inl hp) _)

theorem exec_relocateBlock (a b c : Byte) :
    exec (.relocateBlock seq [a, b, c]) s = .next ((s.startRelocate seq [a, b, c]).finish seq) :=
  congrArg Host.Outcome.next (takeFrame_checked (c := .relocateBlock) hs hf rfl (.inl hp) _)

end

/-- The part with the epoch closed and the FLUSH record in its slot (R41, R59). -/
def State.flushPlaced (s : State) : State :=
  s.setStaging { closeEpoch s.staging with flushSlot := some { epoch := s.staging.epoch, failFlag := false } }

/-- A FLUSH whose record waits: the epoch is closed and the arbiter chooses (R59). -/
theorem startFlush_waits {s : State} (hc : s.host.channel = []) (hnew : ∃ e ∈ s.staging.entries, e.epoch ≤ s.staging.epoch)
    (hslots : ∀ r ∈ s.staging.hostSlots, ∃ e ∈ s.staging.entries, e.epoch ≤ r.epoch) (seq : Byte) :
    (s.startFlush seq).state = (s.acceptLong .flush seq).flushPlaced.arbitrate := by
  have hplace : (s.acceptLong .flush seq).placeFlush = (s.acceptLong .flush seq).flushPlaced := by
    refine examineBarriers_covered (fun r hr => sealed_covered (hslots r hr)) fun r hr => ?_
    cases hr
    exact sealed_covered hnew
  have hendings : (s.acceptLong .flush seq).flushPlaced.takeEndings = (s.acceptLong .flush seq).flushPlaced :=
    takeEndings_none (keptPosts_not_ending s)
  simp only [State.startFlush, hplace, hendings]
  exact settle_no_channel hc

/-- A FLUSH that finds nothing staged and no host record ends OK in the same happening (R59, R172). -/
theorem startFlush_ends {s : State} (hc : s.host.channel = []) (he : s.staging.entries = []) (hslots : s.staging.hostSlots = [])
    (seq : Byte) : (s.startFlush seq).state = State.arbitrate { s with
      staging := { s.staging with epoch := s.staging.epoch + 1, flushSlot := none }
      posted := keptPosts s
      link := { s.link with long := some { code := .flush, seq := seq, ended := some .ok, spare := 0 } } } := by
  have hplace : (s.acceptLong .flush seq).placeFlush = { s.acceptLong .flush seq with
      staging := { s.staging with epoch := s.staging.epoch + 1, flushSlot := none }
      posted := keptPosts s ++ [.longCommandEnding .flush .ok 0] } := by
    have hempty : (s.acceptLong .flush seq).flushPlaced.staging.entries = [] := congrArg (List.map sealEntry) he
    refine (examineBarriers_empty hempty).trans ?_
    simp [State.flushPlaced, State.acceptLong, closeEpoch, freeBarriers, keptPosts, he, hslots]
  have hendings := takeEndings_one (s := (s.acceptLong .flush seq).placeFlush) (keptPosts_not_ending s)
    (r := { code := .flush, seq := seq, ended := none, spare := 0 }) (by rw [hplace]) (by rw [hplace]; rfl) rfl
  rw [hplace] at hendings
  simp only [State.startFlush, hplace, hendings]
  exact settle_no_channel hc

/-! ## RELOCATE_BLOCK (R184) -/

theorem startRelocate_badParam {s : State} {seq : Byte} {params : List Byte} (h : s.xlat.nb ≤ paramNat params 0 3) :
    s.startRelocate seq params = s.refuse .badParam := by
  simp only [State.startRelocate, if_pos h]

/-- The answer PENDING to a long command, on the state that its owner leaves (R170, R172). -/
def State.answeredPending (u : State) (seq : Byte) : State :=
  { u with link := { u.link with lastSeq := some seq, cached := responseFrame .pending seq [], readable := .cached } }

section
variable {s u : State} {seq : Byte} {params : List Byte} {block : Nat} (hblock : paramNat params 0 3 = block) (hb : block < s.xlat.nb)
  (hu : ∀ c ∈ u.posted, isEnding c = false)
include hblock hb hu

/-- A request whose command waits for its ending (R184). -/
theorem startRelocate_waits (ht : (s.acceptLong .relocateBlock seq).takeRelocRequest block .management = u) :
    (s.startRelocate seq params).finish seq = u.answeredPending seq := by
  simp only [State.startRelocate, hblock, if_neg (Nat.not_le.2 hb), ht, takeEndings_none hu]
  rfl

/-- A request that ends its command in the same happening (R172, R184). -/
theorem startRelocate_ends {result : LongResult} (hlink : u.link = (s.acceptLong .relocateBlock seq).link)
    (ht : (s.acceptLong .relocateBlock seq).takeRelocRequest block .management =
      u.post (.longCommandEnding .relocateBlock result 0)) :
    (s.startRelocate seq params).finish seq = State.answeredPending { u with
      link := { s.link with long := some { code := .relocateBlock, seq := seq, ended := some result, spare := 0 } } } seq := by
  have hendings := takeEndings_one (s := u.post (.longCommandEnding .relocateBlock result 0)) (result := result) (spare := 0) hu
    (r := { code := .relocateBlock, seq := seq, ended := none, spare := 0 }) rfl (congrArg Link.long hlink) rfl
  have hrest : (u.post (.longCommandEnding .relocateBlock result 0)).link = (s.acceptLong .relocateBlock seq).link := hlink
  rw [hrest] at hendings
  simp only [State.startRelocate, hblock, if_neg (Nat.not_le.2 hb), ht, hendings]
  rfl

end

/-- The block that a RELOCATE_BLOCK frame carries in its three bytes. -/
theorem relocateBlock_block (a b c : Byte) : paramNat [a, b, c] 0 3 = a.toNat + 256 * b.toNat + 65536 * c.toNat := by
  simp only [paramNat, List.drop_zero, List.take_succ_cons, List.take_zero, leNat]
  omega

/-- Settles O54: FLUSH by `startFlush_waits` and `startFlush_ends`, RELOCATE_BLOCK by what the queue does with its request: it ends at once
(`startRelocate_ends`), or the command waits (`startRelocate_waits`). -/
theorem flushAndRelocateBlockAreLongCommands : Obligations.FlushAndRelocateBlockAreLongCommands := by
  intro s seq hs hf hp accepted
  have hload : s.loader.isLoading = false := isLoading_eq_false.2 ⟨hs.2.2.1, hs.2.2.2⟩
  refine ⟨fun hq => ⟨fun hnew hslots => ?waits, fun he hslots => ?ends⟩, fun a b c => ?relocate⟩
  case waits =>
    have hissued := arbitrate_issuesEntries (s.acceptLong .flush seq).flushPlaced
    refine ⟨_, exec_flush hs hf hp, ?_⟩
    rw [Reply.finish, startFlush_waits hq.2 hnew hslots, arbitrate_link]
    refine ⟨rfl, hissued.1, hissued.2.1, hissued.contents.trans ?_, hissued.not_opened ?_⟩
    · show (s.staging.entries.map sealEntry).map _ = _
      rw [List.map_map]
      refine List.map_congr_left fun e _ => ?_
      simp only [Function.comp_apply, sealEntry]
      split <;> rfl
    · show ∀ e ∈ s.staging.entries.map sealEntry, _
      rw [List.forall_mem_map]
      intro e _
      unfold sealEntry
      split
      · exact nofun
      next h => exact h
  case ends =>
    rw [exec_flush hs hf hp, Reply.finish, startFlush_ends hq.2 he hslots, arbitrate_link, ← arbitrate_setLink]
    rfl
  case relocate =>
    intro block n
    have hblock : paramNat [a, b, c] 0 3 = block := relocateBlock_block a b c
    rw [exec_relocateBlock hs hf hp]
    refine ⟨fun hb => ?_, fun hb hn => ?_⟩
    · rw [startRelocate_badParam (by rw [hblock]; exact hb), finish_refuse]
    have hrun : (s.acceptLong .relocateBlock seq).relocStopped = false := relocStopped_eq_false.2 ⟨hn, hf⟩
    have hkept := keptPosts_not_ending s
    refine ⟨fun hl => ?lost, fun hl hx hq => ⟨fun hfull => ?full, fun hroom => ?joins⟩, fun hl x hx hxb => ?inFlight,
      fun hl hx before e after he => ?queued⟩
    case lost =>
      exact congrArg Host.Outcome.next (startRelocate_ends (u := s.acceptLong .relocateBlock seq) hblock hb hkept rfl
        (takeRelocRequest_lost hrun hload hb hl _))
    case inFlight =>
      exact congrArg Host.Outcome.next (startRelocate_waits hblock hb hkept
        (takeRelocRequest_inFlight hrun hload hb hl hx hxb .management))
    case queued =>
      have hrequest := takeRelocRequest_waiting hrun hload hb hl hx .management
      have hqueued (h : e ∈ s.reloc.urgent ++ s.reloc.normal) :
          (s.acceptLong .relocateBlock seq).takeRelocRequest block .management =
            (s.acceptLong .relocateBlock seq).mergeRequest block .management :=
        hrequest.trans (if_pos (he ▸ isQueued_of_mem h))
      rw [← mergeEntry_management]
      refine ⟨fun hnormal hothers => ?_, fun hurgent hothers => ?_⟩
      · refine congrArg Host.Outcome.next (startRelocate_waits hblock hb hkept ((hqueued (by simp [hnormal])).trans
          (mergeRequest_normal rfl he hnormal fun f hf => hothers f ?_)))
        rw [List.append_assoc]
        exact List.mem_append_right _ hf
      · exact congrArg Host.Outcome.next (startRelocate_waits hblock hb hkept ((hqueued (by simp [hurgent])).trans
          (mergeRequest_urgent .management he hurgent (fun f hf => hothers f (List.mem_append_left _ hf))
            fun f hf => hothers f (List.mem_append_right _ hf))))
    all_goals
      have hrequest : (s.acceptLong .relocateBlock seq).takeRelocRequest block .management =
          (s.acceptLong .relocateBlock seq).normalRequest block .management :=
        (takeRelocRequest_waiting hrun hload hb hl hx .management).trans
          (if_neg (Bool.eq_false_iff.1 (isQueued_eq_false.2 hq)))
    case full =>
      have hrefused := hrequest.trans (normalRequest_refused (s := s.acceptLong .relocateBlock seq) hfull block)
      exact congrArg Host.Outcome.next (startRelocate_ends
        (u := (s.acceptLong .relocateBlock seq).dropRequest block .management 1) hblock hb hkept rfl hrefused)
    case joins =>
      have hjoined := hrequest.trans (normalRequest_joins (s := s.acceptLong .relocateBlock seq) hf hroom block)
      refine congrArg Host.Outcome.next (startRelocate_waits hblock hb ?_ hjoined)
      intro c hc
      rcases List.mem_append.1 hc with hc | hc
      · exact hkept c hc
      · split at hc
        · cases List.mem_singleton.1 hc
          rfl
        · cases hc

end Sys2Proof.Machine
end

section
/-! SUPPORT. The port's transactions at a part whose arbiter is at rest: requests that wait or are discarded, the response taken, and
the host link reset (R47, R65 to R68, R83 to R85). -/

namespace Sys2Proof.Machine

/-! ## Requests in the channel (R66, R67) -/

/-- In IN_RESET the requests presented are discarded (R84). -/
theorem takeHeld_inReset {s : State} (n : Nat) (hr : s.host.ready = .inReset) :
    s.takeHeld (n + 1) = s.setHost { s.host with channel := [] } := by
  cases hch : s.host.channel with
  | nil =>
    rw [takeHeld_empty _ hch, ← hch]
    rfl
  | cons r rest => simp only [State.takeHeld, hch, hr, if_true]

/-- A request at the head that may not be taken keeps the whole channel waiting (R66). -/
theorem takeHeld_waits {s : State} (n : Nat) (hr : s.host.ready ≠ .inReset)
    (ht : ∀ r rest, s.host.channel = r :: rest → s.canTake r = false) : s.takeHeld n = s := by
  cases n with
  | zero => rfl
  | succ n =>
    cases hch : s.host.channel with
    | nil => exact takeHeld_empty _ hch
    | cons r rest => simp only [State.takeHeld, hch, if_neg hr, ht r rest hch, Bool.false_eq_true, if_false]

/-- Where the arbiter rests, what follows a change is the taking of the held requests. -/
theorem settle_of_rests {s : State} (h : s.Rests) : s.settle = s.takeHeld s.host.channel.length := by
  rw [State.settle, arbitrate_of_rests h]

/-- Where the arbiter rests, the only request held is taken when it may be, and the arbiter chooses (R67). -/
theorem settle_takes {s : State} {r : HostRequest} (h : s.Rests) (hc : s.host.channel = [r])
    (hr : s.host.ready ≠ .inReset) (ht : s.canTake r = true) :
    s.settle = ((s.setHost { s.host with channel := [] }).takeRequest r).arbitrate := by
  rw [settle_of_rests h, hc]
  exact takeHeld_cons 0 hc hr ht

/-- The state in which a request has joined the end of the channel. -/
def State.withHeld (s : State) (r : HostRequest) : State :=
  s.setHost { s.host with channel := s.host.channel ++ [r] }

theorem present_eq {s : State} (h : s.Rests) (r : HostRequest) :
    s.present r = (s.withHeld r).takeHeld (s.withHeld r).host.channel.length :=
  settle_of_rests (s := s.withHeld r) h

/-- A request presented behind a head that may not be taken, or as such a head, waits in the channel (R66). -/
theorem present_waits {s : State} (h : s.Rests) {r : HostRequest} (hr : s.host.ready ≠ .inReset)
    (ht : ∀ q rest, s.host.channel ++ [r] = q :: rest → s.canTake q = false) : s.present r = s.withHeld r :=
  (present_eq h r).trans (takeHeld_waits _ hr ht)

/-- With an empty channel the request presented is the head. -/
theorem present_waits_head {s : State} (h : s.Rests) {r : HostRequest} (hc : s.host.channel = [])
    (hr : s.host.ready ≠ .inReset) (ht : s.canTake r = false) : s.present r = s.withHeld r := by
  refine present_waits h hr fun q rest hq => ?_
  rw [hc] at hq
  cases hq
  exact ht

/-- A request presented in IN_RESET is discarded (R84). -/
theorem present_inReset {s : State} (h : s.Rests) (hc : s.host.channel = []) (hr : s.host.ready = .inReset)
    (r : HostRequest) : s.present r = s := by
  have hlen : (s.withHeld r).host.channel.length = s.host.channel.length + 1 := List.length_append
  rw [present_eq h, hlen, takeHeld_inReset (s := s.withHeld r) _ hr]
  show s.setHost { s.host with channel := [] } = s
  rw [← hc]
  rfl

/-! ## The conditions of Table 4-2 -/

/-- The port takes no request: it is STARTING or RECOVERING, or its reserve is used up (R66, R68, R83, R85). -/
def HostPort.Closed (h : HostPort) : Prop :=
  h.ready = .starting ∨ h.ready = .recovering ∨ h.ready = .opened ∧ 80 ≤ h.reserve

theorem HostPort.Closed.not_inReset {h : HostPort} (hc : h.Closed) : h.ready ≠ .inReset := by
  rcases hc with hr | hr | ⟨hr, _⟩ <;> simp [hr]

theorem canTake_closed {s : State} (hc : s.host.Closed) (r : HostRequest) : s.canTake r = false := by
  rcases hc with hr | hr | ⟨_, hfull⟩
  · simp [State.canTake, hr]
  · simp [State.canTake, hr]
  · simp [State.canTake, Config.responseRoom, Nat.not_lt.2 hfull]

/-- A WRITE is not taken into a full buffer (R40, R66). -/
theorem canTake_write_full {s : State} (ho : 64 ≤ occupancy s.staging) (tag addr : Nat) (data : Line) (mask : Mask) :
    s.canTake (.write tag addr data mask) = false := by
  simp [State.canTake, Config.stagingEntries, Nat.not_lt.2 ho]

/-- A BARRIER is not taken while every host slot is occupied (R56, R66). -/
theorem canTake_barrier_full {s : State} (ho : 4 ≤ s.staging.hostSlots.length) (tag : Nat) :
    s.canTake (.barrier tag) = false := by
  simp [State.canTake, Config.hostBarrierSlots, Nat.not_lt.2 ho]

/-- Settles O11: a closed port takes no head (`canTake_closed`), a full buffer or four barriers only not the request's own kind, and
IN_RESET discards. -/
theorem requestsWaitInTheChannel : Obligations.RequestsWaitInTheChannel := by
  intro s h held closed
  refine ⟨fun hclosed => ?closed, fun hc hr => ?full, fun hc hr => ?inReset⟩
  case closed =>
    have hwaits (r : HostRequest) : s.present r = held r :=
      present_waits h (HostPort.Closed.not_inReset hclosed) fun q _ _ => canTake_closed hclosed q
    have hnext (r : HostRequest) : (.next (s.present r) : Host.Outcome State Fault Refusal) = .next (held r) :=
      congrArg _ (hwaits r)
    exact ⟨fun _ _ => hnext _, fun _ _ _ _ => hnext _, fun _ => hnext _⟩
  case full =>
    have hwaits {r : HostRequest} (ht : s.canTake r = false) : s.present r = held r :=
      present_waits_head h hc (by simp [hr]) ht
    exact ⟨fun _ _ _ _ ho => congrArg Host.Outcome.next (hwaits (canTake_write_full ho _ _ _ _)),
      fun _ ho => congrArg Host.Outcome.next (hwaits (canTake_barrier_full ho _))⟩
  case inReset =>
    have hgone (r : HostRequest) : (.next (s.present r) : Host.Outcome State Fault Refusal) = .next s :=
      congrArg _ (present_inReset h hc hr r)
    exact ⟨fun _ _ => hgone _, fun _ _ _ _ => hgone _, fun _ => hgone _⟩

/-! ## The response taken (R67, R68) -/

theorem exec_responseTaken_empty {s : State} (h : s.host.responses = []) : exec .responseTaken s = .next s := by
  show Host.Outcome.next _ = _
  rw [h]

theorem exec_responseTaken_head {s : State} {r : Response} {rest : List Response} (h : s.host.responses = r :: rest) :
    exec .responseTaken s = .next (s.setHost { s.host with responses := rest }).settle := by
  show Host.Outcome.next _ = _
  rw [h]

/-- Settles O12: the state without the response rests as before, so that only a held request can follow (`settle_takes`). -/
theorem responseTakenLeavesTheQueue : Obligations.ResponseTakenLeavesTheQueue := by
  intro s h
  refine ⟨exec_responseTaken_empty, fun r rest hresp => ?_⟩
  intro freed
  have hrests : freed.Rests := h
  rw [exec_responseTaken_head hresp]
  refine ⟨fun hc => ?_, fun req hc hr ht => ?_⟩
  · exact congrArg Host.Outcome.next (settle_of_quiet (s := freed) ⟨hrests, hc⟩)
  · exact congrArg Host.Outcome.next (settle_takes (s := freed) hrests hc hr ht)

/-! ## The host link reset (R65, R84, R85) -/

theorem exec_hostLinkResetAssert {s : State} (h : s.host.ready ≠ .starting) :
    exec .hostLinkResetAssert s =
      .next (s.setPins { s.pins with linkReset := true }).linkResetPort.arbitrate :=
  congrArg Host.Outcome.next (if_neg h)

theorem exec_hostLinkResetRelease {s : State} (h : s.host.ready = .inReset) :
    exec .hostLinkResetRelease s = .next (State.settle { s with
      pins := { s.pins with linkReset := false }
      host := { s.host with ready := releasedReady s.host } }) :=
  congrArg Host.Outcome.next (if_pos h)

/-- The emptied port and buffer, with the fences of the QUEUED reads lowered (R65, R84). -/
theorem linkResetPort_eq (s : State) : ∃ fences : List (Nat × Nat),
    (∀ line, fenceCount { s.staging with fences := fences } line =
      fenceCount s.staging line - (s.host.queue.filter fun r => !r.issued && decide (r.addr = line)).length) ∧
    s.linkResetPort = { s with
      staging := dropHostPromises { s.staging with fences := fences }
      host :=
        { channel := [], responses := [], readTags := [], writeTags := [], barrierTags := [], queue := [], ready := .inReset,
          abandoned := match s.host.queue.find? (fun r => r.issued) with
            | some r => some r.addr
            | none => s.host.abandoned } } := by
  obtain ⟨fences, hlower, hcount⟩ := lowerFences_fences s (s.host.queue.filter fun r => !r.issued)
  refine ⟨fences, fun line => (hcount line).trans ?_, ?_⟩
  · simp only [List.filter_filter, Bool.and_comm]
  · rw [State.linkResetPort, hlower]
    rfl

/-- Settles O5: the assertion by `linkResetPort_eq`; after the release the arbiter rests as before and no request waits. -/
theorem hostLinkResetEmptiesAndReopensThePort : Obligations.HostLinkResetEmptiesAndReopensThePort := by
  refine ⟨fun s => ⟨fun hr => ?noted, fun hr => ?asserted⟩, fun s => ⟨fun hr => ?ignored, fun hr hq => ?released⟩⟩
  case noted => exact congrArg Host.Outcome.next (if_pos hr)
  case asserted =>
    obtain ⟨fences, hcount, hport⟩ := linkResetPort_eq (s.setPins { s.pins with linkReset := true })
    refine ⟨fences, hcount, ?_⟩
    rw [exec_hostLinkResetAssert hr, hport]
    rfl
  case ignored => exact congrArg Host.Outcome.next (if_neg hr)
  case released =>
    rw [exec_hostLinkResetRelease hr]
    exact congrArg Host.Outcome.next (settle_of_quiet (s := { s with
      pins := { s.pins with linkReset := false }, host := { s.host with ready := releasedReady s.host } }) hq)

end Sys2Proof.Machine
end

section
/-! SUPPORT. A report at the error watch table: which reports are dropped, the block's entry, and the room made for a new one (R90 to
R92). -/

namespace Sys2Proof.Machine

/-! ## Which reports are dropped (R90, log 3, log 39) -/

theorem isQueued_iff {r : Reloc} {block : Nat} : r.isQueued block = true ↔ ∃ e ∈ r.urgent ++ r.normal, e.block = block := by
  simp [Reloc.isQueued, or_and_right, exists_or]

theorem isMigrating_iff {r : Reloc} {block : Nat} : r.isMigrating block = true ↔ ∃ x, r.record = some x ∧ x.block = block := by
  unfold Reloc.isMigrating
  cases r.record <;> simp

theorem dropsReport_iff {s : State} {block : Nat} : s.dropsReport block = true ↔
    s.xlat.nb ≤ block ∨ block ∈ s.xlat.lost ∨ (∃ e ∈ s.reloc.urgent ++ s.reloc.normal, e.block = block) ∨
      ∃ x, s.reloc.record = some x ∧ x.block = block := by
  simp only [State.dropsReport, Bool.or_eq_true, decide_eq_true_eq, isQueued_iff, isMigrating_iff, isLost_iff]
  rw [or_comm, or_comm (b := block ∈ s.xlat.lost)]

/-! ## The block's entry (R88, R90) -/

/-- At most 255 a count rises by one, and stays at 255. -/
theorem raiseCount_eq {n : Nat} (h : n ≤ 255) : raiseCount n = min (n + 1) 255 := by
  unfold raiseCount
  split <;> omega

section
variable {w : Watch} {block : Nat}

/-- The entries of other blocks stay when a block's entry is taken out. -/
theorem filter_watch_others {l : List WatchEntry} (h : ∀ f ∈ l, f.block ≠ block) : (l.filter fun f => f.block != block) = l :=
  List.filter_eq_self.2 fun f hf => bne_iff_ne.2 (h f hf)

theorem filter_watch_entry {before after : List WatchEntry} {e : WatchEntry} (he : e.block = block)
    (h : ∀ f ∈ before ++ after, f.block ≠ block) :
    ((before ++ e :: after).filter fun f => f.block != block) = before ++ after := by
  obtain ⟨hb, ha⟩ := List.forall_mem_append.1 h
  rw [List.filter_append, List.filter_cons_of_neg (by simp [he]), filter_watch_others hb, filter_watch_others ha]

section
variable (h : ∀ e ∈ w.entries, e.block ≠ block)
include h

theorem watchEntry_absent : watchEntry w block = none := List.find?_eq_none.2 fun e he => by simp [h e he]

theorem reportedCount_absent : reportedCount w block = 1 := by
  simp only [reportedCount, watchEntry_absent h]

theorem dropWatch_absent : dropWatch w block = w := by
  rw [dropWatch, filter_watch_others h]

/-- A block without an entry is inserted at position 0, where there is room (R91). -/
theorem recordWatch_absent (bits : Nat) : recordWatch w block bits =
    { w with entries := { block := block, count := 1, lastBits := bits } :: makeRoom w.entries } := by
  simp only [recordWatch, reportedCount_absent h, watchEntry_absent h]

end

section
variable {before after : List WatchEntry} {e : WatchEntry} (hw : w.entries = before ++ e :: after) (he : e.block = block)
  (h : ∀ f ∈ before ++ after, f.block ≠ block)
include hw he h

theorem watchEntry_present : watchEntry w block = some e := by
  rw [watchEntry, hw]
  exact List.find?_eq_some_iff_append.2
    ⟨decide_eq_true he, before, after, rfl, fun f hf => by simp [h f (List.mem_append_left _ hf)]⟩

theorem reportedCount_present (hc : e.count ≤ 255) : reportedCount w block = min (e.count + 1) 255 := by
  simp only [reportedCount, watchEntry_present hw he h, raiseCount_eq hc]

theorem dropWatch_present : dropWatch w block = { w with entries := before ++ after } := by
  rw [dropWatch, hw, filter_watch_entry he h]

/-- A block's entry moves to position 0 (R90). -/
theorem recordWatch_present (hc : e.count ≤ 255) (bits : Nat) : recordWatch w block bits =
    { w with entries := { block := block, count := min (e.count + 1) 255, lastBits := bits } :: (before ++ after) } := by
  simp only [recordWatch, reportedCount_present hw he h hc, watchEntry_present hw he h, dropWatch_present hw he h]

end

end

/-! ## Room for a new entry (R91) -/

theorem foldl_count_le (l : List WatchEntry) (m : Nat) :
    l.foldl (fun m e => min m e.count) m ≤ m ∧ ∀ e ∈ l, l.foldl (fun m e => min m e.count) m ≤ e.count := by
  induction l generalizing m with
  | nil => exact ⟨le_rfl, nofun⟩
  | cons a rest ih =>
    obtain ⟨hstart, hrest⟩ := ih (min m a.count)
    exact ⟨hstart.trans (min_le_left _ _), List.forall_mem_cons.2 ⟨hstart.trans (min_le_right _ _), hrest⟩⟩

/-- The lowest count of a table is that of an entry which no other is below. -/
theorem lowestCount_eq {l : List WatchEntry} {v : WatchEntry} (hv : v ∈ l) (hc : ∀ e ∈ l, e.count ≤ 255)
    (h : ∀ e ∈ l, v.count ≤ e.count) : lowestCount l = v.count := by
  obtain ⟨e, he, hlow⟩ := lowestCount_mem (List.ne_nil_of_mem hv) hc
  exact le_antisymm ((foldl_count_le l 255).2 v hv) (hlow ▸ h e he)

/-- A table with room keeps its entries. -/
theorem makeRoom_room {l : List WatchEntry} (h : l.length < 32) : makeRoom l = l := if_pos h

/-- A full table loses the entry of least count, the last in recency among equals. -/
theorem makeRoom_full {before after : List WatchEntry} {v : WatchEntry} (hlen : (before ++ v :: after).length = 32)
    (hd : ((before ++ v :: after).map (·.block)).Nodup) (hc : ∀ e ∈ before ++ v :: after, e.count ≤ 255)
    (hb : ∀ f ∈ before, v.count ≤ f.count) (ha : ∀ f ∈ after, v.count < f.count) :
    makeRoom (before ++ v :: after) = before ++ after := by
  have hlow : lowestCount (before ++ v :: after) = v.count := by
    refine lowestCount_eq (by simp) hc fun e he => ?_
    rcases List.mem_append.1 he with he | he
    · exact hb e he
    · rcases List.mem_cons.1 he with rfl | he
      · exact le_rfl
      · exact (ha e he).le
  have hevicted : evicted (before ++ v :: after) = some v := by
    rw [evicted, hlow]
    refine List.find?_eq_some_iff_append.2 ⟨decide_eq_true rfl, after.reverse, before.reverse, by simp, fun f hf => ?_⟩
    have := ha f (List.mem_reverse.1 hf)
    simp only [Bool.not_eq_true', decide_eq_false_iff_not]
    omega
  have hothers : ∀ f ∈ before ++ after, f.block ≠ v.block := by
    rw [List.map_append, List.map_cons, List.nodup_middle] at hd
    rw [← List.map_append] at hd
    intro f hf hfv
    exact (List.nodup_cons.1 hd).1 (hfv ▸ List.mem_map_of_mem hf)
  rw [makeRoom, if_neg (by rw [hlen]; decide), hevicted]
  exact filter_watch_entry rfl hothers

/-! ## The report (R90 to R92) -/

theorem exec_watchReport {s : State} (h : s.inReset = false) {block bits : Nat} (h1 : 1 ≤ bits) (h4 : bits ≤ 4) :
    exec (.watchReport block bits) s = .next ((s.without (.watchReport block bits)).takeReport block bits) :=
  congrArg Host.Outcome.next ((handOver_eq h _ _).trans (if_pos ⟨h1, h4⟩))

theorem takeReport_dropped {s : State} {block : Nat} (h : s.watch.failed = true ∨ s.dropsReport block = true) (bits : Nat) :
    s.takeReport block bits = s := if_pos ((Bool.or_eq_true _ _).mpr h)

section
variable {s : State} {block : Nat} (h : ¬ (s.watch.failed = true ∨ s.dropsReport block = true)) {w : Watch} (bits : Nat)
include h

/-- At the threshold the block's entry goes and its relocation is requested (R92). -/
theorem takeReport_requests (ht : s.watch.threshold ≤ reportedCount s.watch block) (hw : dropWatch s.watch block = w) :
    s.takeReport block bits = (s.setWatch w).post (.relocRequest block .corrThreshold) := by
  subst hw
  exact (if_neg (mt (Bool.or_eq_true _ _).mp h)).trans (if_pos ht)

theorem takeReport_records (ht : reportedCount s.watch block < s.watch.threshold) (hw : recordWatch s.watch block bits = w) :
    s.takeReport block bits = s.setWatch w := by
  subst hw
  exact (if_neg (mt (Bool.or_eq_true _ _).mp h)).trans (if_neg (Nat.not_le.2 ht))

end

/-- Settles O43: the count of the report by whether the block has an entry, then the request at the threshold, or the entry at position 0;
the entry displaced in a full table by `makeRoom_full`. -/
theorem watchReportsCountInsertAndRequest : Obligations.WatchReportsCountInsertAndRequest := by
  intro block bits s hup h1 h4 s0 requested drops
  have hdrops : (s.watch.failed = true ∨ s.dropsReport block = true) ↔ drops := or_congr_right dropsReport_iff
  have hexec {t : State} (ht : s0.takeReport block bits = t) : exec (.watchReport block bits) s = .next t :=
    (exec_watchReport hup h1 h4).trans (congrArg Host.Outcome.next ht)
  refine ⟨fun h => hexec (takeReport_dropped (s := s0) (hdrops.2 h) bits), fun h => ?_⟩
  have htaken : ¬ (s0.watch.failed = true ∨ s0.dropsReport block = true) := mt hdrops.1 h
  refine ⟨fun before e after hw he hothers hc => ?present, fun hothers => ?absent⟩
  case present =>
    intro count
    have hcount : reportedCount s.watch block = count := reportedCount_present hw he hothers hc
    exact ⟨fun ht => hexec (takeReport_requests htaken bits (ht.trans_eq hcount.symm) (dropWatch_present hw he hothers)),
      fun ht => hexec (takeReport_records htaken bits (hcount.trans_lt ht) (recordWatch_present hw he hothers hc bits))⟩
  case absent =>
    have hcount : reportedCount s.watch block = 1 := reportedCount_absent hothers
    have hrecorded := recordWatch_absent hothers bits
    refine ⟨fun ht => hexec (takeReport_requests htaken bits (ht.trans_eq hcount.symm) (dropWatch_absent hothers)),
      fun ht hroom => ?room, fun ht hfits before v after hw hlen hb ha => ?full⟩
    case room =>
      rw [makeRoom_room hroom] at hrecorded
      exact hexec (takeReport_records htaken bits (hcount.trans_lt ht) hrecorded)
    case full =>
      obtain ⟨-, hd, hc⟩ := hfits
      rw [hw] at hd hc hlen
      rw [hw, makeRoom_full hlen hd hc hb ha] at hrecorded
      exact hexec (takeReport_records htaken bits (hcount.trans_lt ht) hrecorded)

end Sys2Proof.Machine
end

section
/-! SUPPORT. A relocation request at the queue: it is dropped, ends its command, is noted in the record in flight, merges, joins, displaces
a normal entry, or is turned away (R102 to R106). -/

namespace Sys2Proof.Machine

/-! ## The step (R102) -/

/-- The classes of Table 6-1. -/
theorem isUrgent_iff (cause : RelocCause) : isUrgent cause = true ↔ cause = .programFail ∨ cause = .uncorrectable := by
  cases cause <;> simp [isUrgent]

theorem isUrgent_eq_false (cause : RelocCause) : isUrgent cause = false ↔ cause = .corrThreshold ∨ cause = .management := by
  cases cause <;> simp [isUrgent]

theorem isLoading_iff (l : Loader) : l.isLoading = true ↔ l.state = .loadingMfg ∨ l.state = .loadingField := by
  simp [Loader.isLoading]

/-- The step of a request for whatever state `u` the queue leaves, with no request waiting at the port. -/
theorem exec_relocRequest {s u : State} {block : Nat} {cause : RelocCause} (h : s.inReset = false)
    (hu : (s.without (.relocRequest block cause)).takeRelocRequest block cause = u) (hc : u.host.channel = []) :
    exec (.relocRequest block cause) s = .next u.arbitrate := by
  subst hu
  exact congrArg Host.Outcome.next ((handOver_eq h _ _).trans (settle_no_channel hc))

theorem takeRelocRequest_stopped {s : State} (h : s.relocStopped = true ∨ s.loader.isLoading = true) (block : Nat) (cause : RelocCause) :
    s.takeRelocRequest block cause = s := if_pos (or_assoc.1 (.inl h))

/-! ## A new entry (R104, R105) -/

section
variable {s : State} {cause : RelocCause} (block : Nat)

theorem joinQueue_eq (r : Reloc) (cause : RelocCause) : joinQueue r block cause =
    if cause = .programFail ∨ cause = .uncorrectable then
      { r with urgent := r.urgent ++ [{ block := block, cause := cause, byManagement := decide (cause = .management) }] }
    else { r with normal := r.normal ++ [{ block := block, cause := cause, byManagement := decide (cause = .management) }] } := by
  simp only [joinQueue, isUrgent_iff]

theorem urgentRequest_joins (h : s.reloc.length < 16) (cause : RelocCause) : s.urgentRequest block cause = s.enqueue block cause :=
  if_pos h

theorem normalRequest_enqueues (h : s.reloc.length < 12) (cause : RelocCause) :
    s.normalRequest block cause = s.enqueue block cause := if_pos h

/-- At the reserve of the normal class the request is dropped, and a management command ends REFUSED (R104, R122). -/
theorem normalRequest_dropped (h : 12 ≤ s.reloc.length) (cause : RelocCause) : s.normalRequest block cause = { s with
    log := appendRecord s.log { kind := .relocDropped, block := some block, cause := some cause, value := 1 }
    posted := s.posted ++ if cause = .management then [.longCommandEnding .relocateBlock .refused 0] else [] } := by
  have hfull : ¬ s.reloc.length < Config.normalReserve := Nat.not_lt.2 h
  rw [State.normalRequest, if_neg hfull, endRelocate_eq]
  simp only [decide_eq_true_eq]
  rfl

/-- The newest normal entry leaves the queue, and a command that it carries ends DROPPED (R105, R122). -/
theorem displace_eq {rest : List QueueEntry} {e : QueueEntry} (hn : s.reloc.normal = rest ++ [e]) : s.displace e = { s with
    reloc := { s.reloc with normal := rest }
    log := appendRecord s.log { kind := .relocDropped, block := some e.block, cause := some e.cause, value := 2 }
    posted := s.posted ++ if e.byManagement then [.longCommandEnding .relocateBlock .dropped 0] else [] } := by
  rw [State.displace, endRelocate_eq, hn, List.dropLast_concat]
  rfl

/-- In a full queue an urgent request displaces the newest normal entry, and then joins (R105). -/
theorem urgentRequest_displaces (hf : s.health.state ≠ .failed) (hu : cause = .programFail ∨ cause = .uncorrectable)
    {rest : List QueueEntry} {e : QueueEntry} (hn : s.reloc.normal = rest ++ [e]) (h : s.reloc.length = 16) :
    s.urgentRequest block cause = { s with
      reloc := { s.reloc with
        normal := rest
        urgent := s.reloc.urgent ++ [{ block := block, cause := cause, byManagement := false }] }
      log := appendRecord
        (appendRecord s.log { kind := .relocDropped, block := some e.block, cause := some e.cause, value := 2 })
        { kind := .relocQueued, block := some block, cause := some cause, value := 16 }
      watch := forgetWatch s.watch block
      posted := s.posted ++ if e.byManagement then [.longCommandEnding .relocateBlock .dropped 0] else [] } := by
  have hfull : ¬ s.reloc.length < Config.queueEntries := Nat.not_lt.2 h.ge
  have hlast : s.reloc.normal.getLast? = some e := by rw [hn, List.getLast?_concat]
  have hshort : Reloc.length { s.reloc with normal := rest } = 15 := by
    rw [Reloc.length, hn, List.length_append, List.length_singleton] at h
    show s.reloc.urgent.length + rest.length = 15
    omega
  have hm : cause ≠ .management := by rcases hu with rfl | rfl <;> decide
  rw [State.urgentRequest, if_neg hfull, hlast]
  show (s.displace e).enqueue block cause = _
  rw [displace_eq hn, enqueue_eq]
  · simp [joinQueue_eq, hu, hshort, hm]
  · exact hf

/-- In a queue full of urgent entries an urgent request is dropped, and PROGRAM_FAIL gives the block up (R106, log 6). -/
theorem urgentRequest_dropped (hn : s.reloc.normal = []) (h : 16 ≤ s.reloc.length) : s.urgentRequest block cause =
    if cause = .programFail then (s.dropRequest block cause 3).addLost block .queue else s.dropRequest block cause 3 := by
  have hfull : ¬ s.reloc.length < Config.queueEntries := Nat.not_lt.2 h
  have hlast : s.reloc.normal.getLast? = none := by rw [hn, List.getLast?_nil]
  rw [State.urgentRequest, if_neg hfull, hlast]

end

/-- An urgent cause promotes the block's normal entry: it leaves its class for the tail of the urgent one (R103). -/
theorem mergeRequest_promotes {s : State} {block : Nat} {cause : RelocCause} (hu : isUrgent cause = true)
    {before after : List QueueEntry} {e : QueueEntry} (he : e.block = block) (hn : s.reloc.normal = before ++ e :: after)
    (h : ∀ f ∈ before ++ after, f.block ≠ block) : s.mergeRequest block cause = { s with
      reloc := { s.reloc with normal := before ++ after, urgent := s.reloc.urgent ++ [mergeEntry cause e] }
      log := appendRecord s.log { kind := .relocQueued, block := some block, cause := some cause, value := s.reloc.length } } := by
  subst he
  have hfind : s.reloc.normal.find? (fun f => decide (f.block = e.block)) = some e := by
    rw [hn]
    exact find_entry (decide_eq_true rfl) fun f hf => decide_eq_false (h f (List.mem_append_left _ hf))
  have hlength : s.reloc.length = (s.reloc.urgent ++ [mergeEntry cause e]).length + (before ++ after).length := by
    simp only [Reloc.length, hn, List.length_append, List.length_cons, List.length_nil]
    omega
  simp only [State.mergeRequest, hfind, hu, if_true, hlength]
  rw [hn, filter_block_entry h]
  rfl

/-! ## No request reaches the port by an addition to the lost list (R34) -/

theorem retireSpare_host (s : State) (i block : Nat) : (s.retireSpare i block).host = s.host := by
  unfold State.retireSpare State.count
  dsimp only
  split <;> rfl

theorem dropRemap_host (s : State) (block : Nat) : (s.dropRemap block).host = s.host := by
  unfold State.dropRemap
  split
  · dsimp only
    split <;> simp only [retireSpare_host, State.setXlat_host]
  · rfl

theorem discardBlock_channel (s : State) (block : Nat) : (s.discardBlock block).host.channel = s.host.channel := by
  rw [discardBlock_eq]
  exact examineBarriers_channel _

theorem addLost_channel (s : State) (block : Nat) (req : LostRequester) :
    (s.addLost block req).host.channel = s.host.channel := by
  by_cases hkeep : block ∈ s.xlat.lost ∨ s.health.state = .failed
  · rw [addLost_keeps hkeep]
  obtain ⟨hl, hf⟩ := not_or.1 hkeep
  by_cases hlen : 64 ≤ s.xlat.lost.length
  · rw [addLost_overflow hl hf hlen]
    rfl
  · rw [addLost_adds hl hf (Nat.not_le.1 hlen) req rfl rfl]
    simp only [State.setPosted_host, State.append, State.setLog_host, discardBlock_channel, State.setWatch_host,
      State.setPatrol_host, dropRemap_host, State.setXlat_host]

/-! ## The statements -/

/-- Settles O41: the request merges by `mergeRequest_normal`, `mergeRequest_promotes` or `mergeRequest_urgent`, or joins by
`enqueue_eq`. -/
theorem requestsJoinOrMerge : Obligations.RequestsJoinOrMerge := by
  intro block cause s hup hn hf hmfg hfield hb hl hx hc s0 n urgent fresh merged queued
  have hurgent : isUrgent cause = true ↔ urgent := isUrgent_iff cause
  have hnormal (hu : ¬ urgent) : isUrgent cause = false := Bool.eq_false_iff.2 (mt hurgent.1 hu)
  have hrequest := takeRelocRequest_waiting (s := s0) (relocStopped_eq_false.2 ⟨hn, hf⟩) (isLoading_eq_false.2 ⟨hmfg, hfield⟩)
    hb hl hx cause
  have hmerges {e : QueueEntry} (he : e.block = block) (hmem : e ∈ s.reloc.urgent ++ s.reloc.normal) :
      s0.takeRelocRequest block cause = s0.mergeRequest block cause :=
    hrequest.trans (if_pos (he ▸ isQueued_of_mem hmem))
  refine ⟨fun hq hroom hreserve => ?joins, fun before e after hw he hothers => ?normal,
    fun before e after hw he hothers => ?urgent⟩
  case joins =>
    have hnew := hrequest.trans (if_neg (Bool.eq_false_iff.1 (isQueued_eq_false.2 hq)))
    have hjoins : s0.takeRelocRequest block cause = s0.enqueue block cause := by
      by_cases hu : urgent
      · exact hnew.trans ((if_pos (hurgent.2 hu)).trans (urgentRequest_joins (s := s0) block (hroom hu) cause))
      · exact hnew.trans ((if_neg (mt hurgent.1 hu)).trans (normalRequest_enqueues (s := s0) block (hreserve hu) cause))
    rw [enqueue_eq (s := s0) hf, joinQueue_eq] at hjoins
    exact exec_relocRequest hup hjoins hc
  case normal =>
    have hrequested := hmerges he (by simp [hw])
    have hsame : ∀ f ∈ before ++ after, f.block ≠ block := fun f hf =>
      hothers f (by rw [List.append_assoc]; exact List.mem_append_right _ hf)
    exact ⟨fun hu => exec_relocRequest hup (hrequested.trans (mergeRequest_promotes (hurgent.2 hu) he hw hsame)) hc,
      fun hu => exec_relocRequest hup (hrequested.trans (mergeRequest_normal (hnormal hu) he hw hsame)) hc⟩
  case urgent =>
    obtain ⟨hsame, hnone⟩ := List.forall_mem_append.1 hothers
    exact exec_relocRequest hup ((hmerges he (by simp [hw])).trans (mergeRequest_urgent cause he hw hsame hnone)) hc

/-- Settles O42: the checks of R102 in their order, then the queue's rules for a block without an entry. -/
theorem requestsStoppedOrTurnedAway : Obligations.RequestsStoppedOrTurnedAway := by
  intro block cause s hup hb hc s0 management dropped stopped
  have hstopped : stopped ↔ s0.relocStopped = true ∨ s0.loader.isLoading = true := by
    rw [relocStopped_eq_true, isLoading_iff, or_assoc]
    rfl
  have hchecks (h : ¬ stopped) : s0.relocStopped = false ∧ s0.loader.isLoading = false := by
    rw [hstopped, not_or, Bool.not_eq_true, Bool.not_eq_true] at h
    exact h
  refine ⟨fun h => ?stopped, fun h hl => ?lost, fun x h hl hx hxb => ?inFlight, fun h hl hx hq => ?waiting⟩
  case stopped => exact exec_relocRequest hup (takeRelocRequest_stopped (hstopped.1 h) block cause) hc
  all_goals obtain ⟨hrun, hload⟩ := hchecks h
  case lost =>
    have hlost := (takeRelocRequest_lost hrun hload hb hl cause).trans (endRelocate_eq _ _ _ _)
    simp only [decide_eq_true_eq] at hlost
    exact exec_relocRequest hup hlost hc
  case inFlight =>
    have hnoted := takeRelocRequest_inFlight (s := s0) hrun hload hb hl hx hxb cause
    subst hxb
    cases cause <;> exact exec_relocRequest hup hnoted hc
  case waiting =>
    have hf : s.health.state ≠ .failed := (relocStopped_eq_false.1 hrun).2
    have hnew := (takeRelocRequest_waiting (s := s0) hrun hload hb hl hx cause).trans
      (if_neg (Bool.eq_false_iff.1 (isQueued_eq_false.2 hq)))
    refine ⟨fun hcause hfull => ?normal, fun hcause => ?urgent⟩
    case normal =>
      have hnormal := Bool.eq_false_iff.1 ((isUrgent_eq_false cause).2 hcause)
      exact exec_relocRequest hup (hnew.trans ((if_neg hnormal).trans (normalRequest_dropped (s := s0) block hfull cause))) hc
    case urgent =>
      have hurgent := hnew.trans (if_pos ((isUrgent_iff cause).2 hcause))
      refine ⟨fun rest e hw hlen => ?displaces, fun hw hlen => ?full⟩
      case displaces =>
        exact exec_relocRequest hup (hurgent.trans (urgentRequest_displaces (s := s0) block hf hcause hw hlen)) hc
      case full =>
        have hlength : s0.reloc.length = 16 := by
          show s.reloc.urgent.length + s.reloc.normal.length = 16
          rw [hw, hlen]
          rfl
        have hdrops := hurgent.trans (urgentRequest_dropped (s := s0) block hw hlength.ge)
        refine exec_relocRequest hup hdrops ?_
        split
        · exact (addLost_channel _ block _).trans hc
        · exact hc

end Sys2Proof.Machine
end

section
/-! SUPPORT. The patrol scanner's expiry: the blocks it skips, the read it offers and the end of a pass (R147 to R149). -/

namespace Sys2Proof.Machine

/-! ## The skip (R148) -/

/-- Blocks that are skipped are lost, but for the one being migrated: they are at most one more than the lost blocks. -/
theorem length_le_of_patrolSkips {s : State} {l : List Nat} (hd : l.Nodup) (h : ∀ b ∈ l, s.patrolSkips b = true) :
    l.length ≤ s.xlat.lost.length + 1 := by
  have hsub : l ⊆ (s.reloc.record.map (·.block)).toList ++ s.xlat.lost := by
    intro b hb
    rcases (Bool.or_eq_true _ _).mp (h b hb) with hlost | hmigrating
    · exact List.mem_append_right _ ((isLost_iff _ _).1 hlost)
    · obtain ⟨x, hx, hxb⟩ := isMigrating_iff.1 hmigrating
      exact List.mem_append_left _ (by simp [hx, hxb])
  have hlen := (List.subperm_of_subset hd hsub).length_le
  rw [List.length_append] at hlen
  have hone : (s.reloc.record.map (·.block)).toList.length ≤ 1 := by
    cases s.reloc.record <;> simp
  omega

/-- Consecutive skipped blocks fit the bound of the skip, with one to spare. -/
theorem patrolSkips_run_le {s : State} {block k : Nat} (h : ∀ i, i < k → s.patrolSkips (block + i) = true) :
    k ≤ s.xlat.lost.length + 1 := by
  have hlen := length_le_of_patrolSkips (l := List.range' block k) List.nodup_range' fun b hb => by
    obtain ⟨i, hi, rfl⟩ := List.mem_range'.1 hb
    simpa using h i hi
  simpa using hlen

/-- So do the skipped blocks from a position to the last block together with those from block 0 on, as long as a block is left that is
not skipped. -/
theorem patrolSkips_wrap_le {s : State} {block m : Nat} (hend : ∀ b, block ≤ b → b < s.xlat.nb → s.patrolSkips b = true)
    (hstart : ∀ i, i < m → s.patrolSkips i = true) (hm : m < s.xlat.nb) (hstop : s.patrolSkips m = false) :
    s.xlat.nb - block + m ≤ s.xlat.lost.length + 1 := by
  have hbefore : m < block := by
    by_contra hle
    exact Bool.false_ne_true (hstop.symm.trans (hend m (Nat.le_of_not_lt hle) hm))
  have hd : (List.range' block (s.xlat.nb - block) ++ List.range m).Nodup := by
    refine List.nodup_append.2 ⟨List.nodup_range', List.nodup_range, fun a ha b hb => ?_⟩
    have hge := (List.mem_range'_1.1 ha).1
    have hlt := List.mem_range.1 hb
    omega
  have hlen := length_le_of_patrolSkips (s := s) hd fun b hb => by
    rcases List.mem_append.1 hb with hb | hb
    · obtain ⟨hge, hlt⟩ := List.mem_range'_1.1 hb
      exact hend b hge (by omega)
    · exact hstart b (List.mem_range.1 hb)
  simpa using hlen

theorem nextBlock_within {s : State} (h : s.patrol.block + 1 < s.xlat.nb) :
    s.nextBlock = s.setPatrol { s.patrol with block := s.patrol.block + 1, line := 0 } := if_pos h

theorem nextBlock_last {s : State} (h : s.patrol.block + 1 = s.xlat.nb) : s.nextBlock = s.endPass :=
  if_neg (by omega)

theorem skipBlocks_stays {s : State} (h : s.patrolSkips s.patrol.block = false) (n : Nat) : s.skipBlocks n = s := by
  cases n with
  | zero => rfl
  | succ n => exact if_neg (Bool.eq_false_iff.1 h)

theorem skipBlocks_moves {s : State} (h : s.patrolSkips s.patrol.block = true) (n : Nat) :
    s.skipBlocks (n + 1) = s.nextBlock.skipBlocks n := if_pos h

/-- The skip passes over blocks within the pass and lands at line 0 of the first that is not skipped. -/
theorem skipBlocks_lands {s : State} {k n : Nat} (hskip : ∀ i, i < k → s.patrolSkips (s.patrol.block + i) = true)
    (hnb : s.patrol.block + k < s.xlat.nb) (hstop : s.patrolSkips (s.patrol.block + k) = false) (hn : k ≤ n)
    (hline : k = 0 → s.patrol.line = 0) :
    s.skipBlocks n = s.setPatrol { s.patrol with block := s.patrol.block + k, line := 0 } := by
  induction k generalizing s n with
  | zero =>
    exact (skipBlocks_stays hstop _).trans (congrArg (fun n => s.setPatrol { s.patrol with line := n }) (hline rfl))
  | succ k ih =>
    obtain ⟨n, rfl⟩ : ∃ j, n = j + 1 := ⟨n - 1, by omega⟩
    rw [skipBlocks_moves (hskip 0 (Nat.succ_pos k)), nextBlock_within (by omega)]
    have hnext (i : Nat) : s.patrol.block + 1 + i = s.patrol.block + (i + 1) := by omega
    refine (ih (s := s.setPatrol { s.patrol with block := s.patrol.block + 1, line := 0 }) (n := n) (fun i hi => ?_) ?_ ?_
      (by omega) fun _ => rfl).trans ?_
    · exact (congrArg s.patrolSkips (hnext i)).trans (hskip (i + 1) (by omega))
    · exact (hnext k).trans_lt hnb
    · exact (congrArg s.patrolSkips (hnext k)).trans hstop
    · simp only [State.setPatrol_patrol, hnext]
      rfl

/-- The skip passes over the blocks from the position to the last one, and the pass ends. -/
theorem skipBlocks_wraps {s : State} (hb : s.patrol.block < s.xlat.nb)
    (hskip : ∀ b, s.patrol.block ≤ b → b < s.xlat.nb → s.patrolSkips b = true) (n : Nat) :
    s.skipBlocks (s.xlat.nb - s.patrol.block + n) = s.endPass.skipBlocks n := by
  obtain ⟨d, hd⟩ : ∃ d, s.xlat.nb = s.patrol.block + (d + 1) := ⟨s.xlat.nb - s.patrol.block - 1, by omega⟩
  rw [show s.xlat.nb - s.patrol.block + n = d + n + 1 by omega]
  induction d generalizing s with
  | zero => rw [skipBlocks_moves (hskip _ le_rfl hb), nextBlock_last hd.symm, Nat.zero_add]
  | succ d ih =>
    rw [skipBlocks_moves (hskip _ le_rfl hb), nextBlock_within (by omega), show d + 1 + n = d + n + 1 by omega]
    refine ih (s := s.setPatrol { s.patrol with block := s.patrol.block + 1, line := 0 }) ?_ (fun b hge hlt => ?_) ?_
    · show s.patrol.block + 1 < s.xlat.nb
      omega
    · exact hskip b (Nat.le_of_succ_le hge) hlt
    · show s.xlat.nb = s.patrol.block + 1 + (d + 1)
      omega

/-- Past the end of the pass the skip lands at line 0 of the first block that is not skipped. -/
theorem skipBlocks_lands_after_pass {s : State} {m n : Nat} (hb : s.patrol.block < s.xlat.nb)
    (hend : ∀ b, s.patrol.block ≤ b → b < s.xlat.nb → s.patrolSkips b = true) (hstart : ∀ i, i < m → s.patrolSkips i = true)
    (hm : m < s.xlat.nb) (hstop : s.patrolSkips m = false) (hn : s.xlat.nb - s.patrol.block + m ≤ n) :
    s.skipBlocks n = s.endPass.setPatrol { s.endPass.patrol with block := m, line := 0 } := by
  obtain ⟨j, rfl⟩ := Nat.exists_eq_add_of_le hn
  have hfirst (i : Nat) : s.endPass.patrolSkips (s.endPass.patrol.block + i) = s.patrolSkips i :=
    congrArg s.patrolSkips (Nat.zero_add i)
  have hlast : s.endPass.patrol.block + m = m := Nat.zero_add m
  rw [Nat.add_assoc, skipBlocks_wraps hb hend, skipBlocks_lands (k := m) (fun i hi => (hfirst i).trans (hstart i hi))
    (hlast.trans_lt hm) ((hfirst m).trans hstop) (Nat.le_add_right m j) fun _ => rfl, hlast]

/-! ## The expiry (R147 to R149) -/

/-- The scanner with the next deadline set (R147). -/
def State.rearmed (s : State) : State := s.setPatrol { s.patrol with timer := some s.patrol.interval }

/-- The scanner with a read of its position offered (R148). -/
def State.offersRead (s : State) : State :=
  s.setPatrol { s.patrol with outstanding := some { block := s.patrol.block, line := s.patrol.line, issued := false } }

theorem patrolExpired_idle {s : State} (h : s.patrolState ≠ .running) : s.patrolExpired = s := if_neg fun hr => h hr.1

section
variable {s : State} (hrun : s.patrolState = .running) (htimer : s.patrol.timer.isSome = true)
include hrun htimer

theorem patrolExpired_outstanding (ho : s.patrol.outstanding.isSome = true) : s.patrolExpired = s.rearmed :=
  (if_pos ⟨hrun, htimer⟩).trans (if_pos ho)

/-- With no read outstanding the scanner skips, offers a read where the skip ends, and advances. -/
theorem patrolExpired_offers (ho : s.patrol.outstanding = none) {u : State}
    (hu : s.rearmed.skipBlocks (s.xlat.lost.length + 2) = u) : s.patrolExpired = u.offersRead.nextLine.arbitrate := by
  have hnone : ¬ s.rearmed.patrol.outstanding.isSome = true := by
    show ¬ s.patrol.outstanding.isSome = true
    simp [ho]
  subst hu
  exact (if_pos ⟨hrun, htimer⟩).trans (if_neg hnone)

end

theorem nextLine_within {s : State} (h : s.patrol.line < 63) :
    s.nextLine = s.setPatrol { s.patrol with line := s.patrol.line + 1 } := if_pos h

theorem nextLine_last {s : State} (h : s.patrol.line = 63) : s.nextLine = s.nextBlock := if_neg (by omega)

/-- The end of a pass: the position is line 0 of block 0, the pass is counted and logged, and the watch counts are halved (R95, R149). -/
theorem endPass_eq (s : State) : s.endPass =
    let count := if s.patrol.passCount < 4294967295 then s.patrol.passCount + 1 else s.patrol.passCount
    { s with
      patrol := { s.patrol with passCount := count, block := 0, line := 0 }
      log := appendRecord s.log { kind := .patrolPassDone, value := count }
      watch := if s.watch.failed = true then s.watch
        else { s.watch with
          entries := (s.watch.entries.map fun e => { e with count := e.count / 2 }).filter fun e => decide (0 < e.count) } } := rfl

/-- Settles O38: a skip within the pass lands by `skipBlocks_lands`, one through its end by `skipBlocks_wraps`; the bound of the skip holds
them, for the blocks skipped are lost or in flight (`length_le_of_patrolSkips`). -/
theorem patrolExpiryOffersAReadAndAdvances : Obligations.PatrolExpiryOffersAReadAndAdvances := by
  refine fun s => ⟨fun h => congrArg Host.Outcome.next (patrolExpired_idle h), fun hrun htimer => ?_⟩
  intro p timed count offer pass
  have hexec {u v : State} (ho : p.outstanding = none) (hu : s.rearmed.skipBlocks (s.xlat.lost.length + 2) = u)
      (hv : u.offersRead.nextLine = v) : exec .patrolExpiry s = .next v.arbitrate :=
    hv ▸ congrArg Host.Outcome.next (patrolExpired_offers hrun htimer ho hu)
  refine ⟨fun ho => ?outstanding, fun ho hstay => ?stays, fun ho k hk hskip hnb hstop => ?skips,
    fun ho hb hend m hstart hm hstop => ?wraps⟩
  case outstanding => exact congrArg Host.Outcome.next (patrolExpired_outstanding hrun htimer ho)
  case stays =>
    have hstays := skipBlocks_stays (s := s.rearmed) hstay (s.xlat.lost.length + 2)
    have hnext (hline : p.line = 63) : s.rearmed.offersRead.nextLine = s.rearmed.offersRead.nextBlock := nextLine_last hline
    exact ⟨fun hline => hexec ho hstays (nextLine_within hline),
      fun hline hb => hexec ho hstays ((hnext hline).trans (nextBlock_within hb)),
      fun hline hb => hexec ho hstays (((hnext hline).trans (nextBlock_last hb)).trans (endPass_eq _))⟩
  case skips =>
    have hbound := patrolSkips_run_le hskip
    exact hexec ho (skipBlocks_lands (s := s.rearmed) hskip hnb hstop (hbound.trans (Nat.le_succ _)) (by omega))
      (nextLine_within (Nat.zero_lt_succ 62))
  case wraps =>
    have hbound := patrolSkips_wrap_le hend hstart hm hstop
    have hlands := skipBlocks_lands_after_pass (s := s.rearmed) hb hend hstart hm hstop (hbound.trans (Nat.le_succ _))
    rw [endPass_eq] at hlands
    exact hexec ho hlands (nextLine_within (Nat.zero_lt_succ 62))

end Sys2Proof.Machine
end

section
/-! SUPPORT. The answer of a copy read, and the line buffer that it fills (R112, R123). -/

namespace Sys2Proof.Machine

/-! ## The buffer and the event of a poisoned line (Table 6-3, R160) -/

theorem lineBuffer_uncorrectable {d : Delivered} (hu : d.isUncorrectable = true) : lineBuffer d = (zeroLine, true) := by
  simp [lineBuffer, hu]

theorem lineBuffer_poison {d : Delivered} (hp : d.poison = true) : lineBuffer d = (zeroLine, true) := by
  simp [lineBuffer, hp]

theorem lineBuffer_bytes {d : Delivered} (hu : d.isUncorrectable = false) (hp : d.poison = false) :
    lineBuffer d = (d.bytes, false) := by
  simp [lineBuffer, hu, hp]

/-- Before FAILED a poisoned line raises its two counters, and LINE_POISONED is appended (R160). -/
theorem copyPoisoned_running {s : State} (h : s.health.state ≠ .failed) (x : RelocRecord) : s.copyPoisoned x = { s with
    health := { s.health with counters := countPoisoned (countUncorrectable s.health.counters) }
    log := appendRecord s.log
      { kind := .linePoisoned, block := some x.block, spare := x.spare, line := some x.cursor, value := x.attempt } } := by
  have hpoison := count_running (s := s.setHealth { s.health with counters := countUncorrectable s.health.counters }) h countPoisoned
  rw [State.copyPoisoned, count_running h, hpoison]
  rfl

theorem count_setReloc (s : State) (r : Reloc) (f : Counters → Counters) : (s.setReloc r).count f = (s.count f).setReloc r := by
  rw [Changes.count_eq, Changes.count_eq]
  rfl

/-- The count and the event of a poisoned line do not read the engine's fields. -/
theorem copyPoisoned_setReloc (s : State) (r : Reloc) (x : RelocRecord) :
    (s.setReloc r).copyPoisoned x = (s.copyPoisoned x).setReloc r := by
  rw [State.copyPoisoned, count_setReloc, count_setReloc]
  rfl

/-! ## The answer (R112) -/

/-- The engine whose operation ended, its record with a filled line buffer (R112). -/
def Reloc.filled (r : Reloc) (x : RelocRecord) (buffer : Line × Bool) (poisoned : Nat) : Reloc :=
  { r with stepOut := false, record := some { x with buffer := some buffer, poisoned := poisoned } }

theorem copyReadDone_stopped {s : State} (h : s.relocStopped = true) (d : Delivered) :
    s.copyReadDone d = s.setReloc { s.reloc with stepOut := false } := by
  simp only [State.copyReadDone, h, if_true]

section
variable {s : State} {x : RelocRecord} {d : Delivered} (hrun : s.relocStopped = false) (he : s.reloc.engine = .copy)
  (hx : s.reloc.record = some x)
include hrun he hx

theorem copyReadDone_uncorrectable (hu : d.isUncorrectable = true) : s.copyReadDone d =
    ((s.copyPoisoned x).setReloc (s.reloc.filled x (zeroLine, true) (x.poisoned + 1))).arbitrate := by
  simp only [State.copyReadDone, Reloc.filled, hrun, he, hx, hu, Bool.false_eq_true, if_false, if_true,
    lineBuffer_uncorrectable hu, copyPoisoned_setReloc]
  rfl

theorem copyReadDone_readable (hu : d.isUncorrectable = false) : s.copyReadDone d =
    (s.setReloc (s.reloc.filled x (lineBuffer d) x.poisoned)).arbitrate := by
  simp only [State.copyReadDone, Reloc.filled, hrun, he, hx, hu, Bool.false_eq_true, if_false]
  rfl

end

/-- The exec of the answer of a copy read (R9, R112). -/
theorem exec_copyReadAnswer {s : State} {d : Delivery} (h : s.deliveredFor .copyReadAnswer = some d) :
    exec .copyReadAnswer s = .next ((s.withoutDelivery d .copyReadAnswer).copyReadDone d.answer).arbitrate :=
  congrArg Host.Outcome.next (deliver_eq h State.copyReadDone)

/-- Settles O26: a stopped engine only ends its operation (`copyReadDone_stopped`); in COPY the rows of Table 6-3 are those of
`lineBuffer`, and the arbiter's choice after the buffer is filled is the one after the answer (`arbitrate_twice`). -/
theorem copyReadFillsTheLineBuffer : Obligations.CopyReadFillsTheLineBuffer := by
  intro s d hd s0
  rw [exec_copyReadAnswer hd]
  refine ⟨fun h => ?stopped, fun x hnotice hf he hx => ?copy⟩
  case stopped =>
    rw [copyReadDone_stopped (s := s0) (relocStopped_eq_true.2 h)]
    rfl
  case copy =>
    have hrun : s0.relocStopped = false := relocStopped_eq_false.2 ⟨hnotice, hf⟩
    refine ⟨fun hu => ?uncorrectable, fun hu hp => ?flagged, fun hu hp => ?clear⟩
    case uncorrectable =>
      rw [copyReadDone_uncorrectable (s := s0) hrun he hx hu, arbitrate_twice, copyPoisoned_running (s := s0) hf]
      rfl
    case flagged =>
      rw [copyReadDone_readable (s := s0) hrun he hx hu, arbitrate_twice, lineBuffer_poison hp]
      rfl
    case clear =>
      rw [copyReadDone_readable (s := s0) hrun he hx hu, arbitrate_twice, lineBuffer_bytes hu hp]
      rfl

end Sys2Proof.Machine
end

section
/-! SUPPORT. The release of the power-on reset (R139, R185, R186), and what a commit request does at the commit unit (R131 to R133). -/

namespace Sys2Proof.Machine

/-! ## The release of the reset (R139, R186) -/

/-- The loader comes first in either order of the classes (R13). -/
theorem choice_loader {s : State} (h : s.offers .loader = true) : s.choice = some .loader := by
  unfold State.choice classOrder
  split <;> exact List.find?_cons_of_pos h

/-- The loader offers its read of line 0 of M0 as soon as the reset is released (R139, R140). -/
theorem offers_loader_of_reset {s : State} (hup : s.inReset = false) (hl : s.loader = resetLoader) :
    s.offers .loader = true :=
  (offers_loader_iff s).2 ⟨hup, by rw [hl]; decide⟩

/-- The first read of the loader: line 0 of physical block 0 (R140). -/
theorem issueLoader_first {s : State} (hl : s.loader = resetLoader) : s.issueLoader = { s with
    loader := { resetLoader with readOut := true }
    port :=
      { record := some
          { id := s.port.nextId, kind := .read, requester := .loader, pblock := 0, line := 0, block := none, spare := none,
            deadline := 2000 }
        nextId := s.port.nextId + 1 }
    array := { s.array with op := some { id := s.port.nextId, kind := .read, pblock := 0, line := 0, payload := none } } } := by
  rw [State.issueLoader, hl]
  rfl

/-- The straps are sampled, STARTUP becomes the first record of the log, and the loader's read is the arbiter's choice. -/
theorem startUp_eq {s : State} (hup : s.inReset = false) (hport : s.port.record = none) (hl : s.loader = resetLoader)
    (hlog : s.log = resetLog) (straps : Fin 4) : s.startUp straps = State.issueLoader { s with
      pins := { s.pins with strap := straps }
      log :=
        { records := [{ sequence := 1, body := { kind := .startup, value := straps.val } }], next := 2, alert := false } } := by
  have hsampled : s.startUp straps = State.arbitrate { s with
      pins := { s.pins with strap := straps }
      log := appendRecord resetLog { kind := .startup, value := straps.val } } := by
    rw [← hlog]
    rfl
  exact hsampled.trans (arbitrate_loader (congrArg Option.isSome hport) (choice_loader (offers_loader_of_reset hup hl)))

theorem releaseReset_last {s : State} (hup : s.inReset = false) (straps : Fin 4) : s.releaseReset straps = s.startUp straps := by
  simp only [State.releaseReset, State.whenUp, hup, Bool.false_eq_true, if_false]

theorem releaseReset_held {s : State} (hheld : s.inReset = true) (straps : Fin 4) : s.releaseReset straps = s := by
  simp only [State.releaseReset, State.whenUp, hheld, if_true]

theorem exec_powerOnResetRelease {s : State} (h : s.pins.porInput = true) (straps : Fin 4) :
    exec (.powerOnResetRelease straps) s = .next ((s.setPins { s.pins with porInput := false }).releaseReset straps) :=
  congrArg Host.Outcome.next (if_pos h)

theorem exec_supplyRestoration {s : State} (h : s.pins.supplyLow = true) (straps : Fin 4) :
    exec (.supplyRestoration straps) s = .next ((s.setPins { s.pins with supplyLow := false }).releaseReset straps) :=
  congrArg Host.Outcome.next (if_pos h)

/-- Settles O4: with the other cause clear start-up begins (`startUp_eq`) with the loader's first read (`issueLoader_first`); with it standing,
the reset holds (`releaseReset_held`). -/
theorem releaseOfTheResetBeginsStartUp : Obligations.ReleaseOfTheResetBeginsStartUp := by
  refine ⟨fun s straps hport hl hlog => ⟨fun hpor hlow => ?input, fun hpor hlow => ?supply⟩,
    fun s straps hpor hlow => ⟨?inputHeld, ?supplyHeld⟩⟩
  case input =>
    have hup : (s.setPins { s.pins with porInput := false }).inReset = false := hlow
    rw [exec_powerOnResetRelease hpor, releaseReset_last hup, startUp_eq hup hport hl hlog, issueLoader_first]
    · rfl
    · exact hl
  case supply =>
    have hup : (s.setPins { s.pins with supplyLow := false }).inReset = false := by
      simp only [State.inReset, State.setPins, hpor, Bool.or_false]
    rw [exec_supplyRestoration hlow, releaseReset_last hup, startUp_eq hup hport hl hlog, issueLoader_first]
    · rfl
    · exact hl
  case inputHeld =>
    have hheld : (s.setPins { s.pins with porInput := false }).inReset = true := hlow
    rw [exec_powerOnResetRelease hpor, releaseReset_held hheld]
    rfl
  case supplyHeld =>
    have hheld : (s.setPins { s.pins with supplyLow := false }).inReset = true := by
      simp only [State.inReset, State.setPins, hpor, Bool.true_or]
    rw [exec_supplyRestoration hlow, releaseReset_held hheld]
    rfl

/-! ## The target of a capture (R133) -/

theorem targetCopy_other {c : CommitUnit} {h : CopyId} (hh : c.holder = some h) (hok : copyState c (otherCopy h) = .ok) :
    targetCopy c = otherCopy h := by
  simp only [targetCopy, hh, hok, if_true]

theorem targetCopy_holder {c : CommitUnit} {h : CopyId} (hh : c.holder = some h) (hf : copyState c (otherCopy h) = .failed) :
    targetCopy c = h := by
  simp only [targetCopy, hh, hf, reduceCtorEq, if_false]

theorem targetCopy_first {c : CommitUnit} (hn : c.holder = none) : targetCopy c = if c.copyA = .ok then .a else .b := by
  simp only [targetCopy, hn]

theorem otherCopy_ne (h : CopyId) : otherCopy h ≠ h := by
  cases h <;> decide

theorem copyState_otherCopy (c : CommitUnit) (target : CopyId) : copyState c (otherCopy target) = match target with
    | .a => c.copyB
    | .b => c.copyA := by
  cases target <;> rfl

/-! ## The commit request (R131, R132) -/

theorem takeCommitRequest_stopped {s : State} (h : s.commit.stopped = true) (p : CommitParty) : s.takeCommitRequest p = s := by
  simp only [State.takeCommitRequest, h, if_true]

section
variable {s : State} (hrun : s.commit.stopped = false)
include hrun

theorem takeCommitRequest_idle (hw : s.commit.writing = none) (p : CommitParty) : s.takeCommitRequest p =
    ((s.setCommit { s.commit with waiters := addWaiter s.commit.waiters p true }).capture).arbitrate := by
  simp only [State.takeCommitRequest, hrun, hw, Bool.false_eq_true, if_false]

theorem takeCommitRequest_writing (hw : s.commit.writing ≠ none) (p : CommitParty) : s.takeCommitRequest p =
    s.setCommit { s.commit with followUp := true, waiters := addWaiter s.commit.waiters p false } := by
  obtain ⟨w, hw⟩ := Option.ne_none_iff_exists'.1 hw
  simp only [State.takeCommitRequest, hrun, hw, Bool.false_eq_true, if_false]

end

/-- The exec of a commit request out of reset (R131). -/
theorem exec_commitRequest {s : State} (h : s.inReset = false) (p : CommitParty) :
    exec (.commitRequest p) s = .next ((s.without (.commitRequest p)).takeCommitRequest p) :=
  congrArg Host.Outcome.next (handOver_eq h _ fun t => t.takeCommitRequest p)

/-- Settles O30: the three cases of `takeCommitRequest`; the image's copy state is that of the copy not written (`copyState_otherCopy`). -/
theorem commitRequestCapturesOrFollowsUp : Obligations.CommitRequestCapturesOrFollowsUp := by
  intro p s hup s0 others
  rw [exec_commitRequest hup]
  refine ⟨fun hstop => ?stopped, fun hrun hw => ?idle, fun hrun hw => ?writing⟩
  case stopped =>
    rw [takeCommitRequest_stopped (s := s0) hstop]
  case idle =>
    intro target image joined
    have himage : s.capturedImage target = image := by
      simp only [State.capturedImage, copyState_otherCopy]
      rfl
    rw [takeCommitRequest_idle (s := s0) hrun hw, ← himage]
    rfl
  case writing =>
    rw [takeCommitRequest_writing (s := s0) hrun hw]
    rfl

/-- What the unit writes does not depend on whether the arbiter issues its program. -/
theorem arbitrate_writing (s : State) : s.arbitrate.commit.writing = s.commit.writing := by
  have h : KeepsCommit s s.arbitrate := arbitrateFrom_keepsCommit _ s
  rw [h]

/-- Settles O31: the four cases of `targetCopy`; the arbiter, which chooses after the capture, leaves the image that is written
(`arbitrate_writing`). -/
theorem targetCopyOfACapture : Obligations.TargetCopyOfACapture := by
  refine ⟨fun c => ⟨fun h hh hok => ?other, fun _ => targetCopy_holder, fun hn ha => ?first, fun hn ha => ?second⟩,
    fun p s hup hrun hw => ?capture⟩
  case other =>
    rw [targetCopy_other hh hok]
    exact ⟨rfl, otherCopy_ne h⟩
  case first => rw [targetCopy_first hn, if_pos ha]
  case second => rw [targetCopy_first hn, if_neg (by rw [ha]; decide)]
  case capture =>
    have hidle := takeCommitRequest_idle (s := s.without (.commitRequest p)) hrun hw p
    exact ⟨_, _, exec_commitRequest hup p, (congrArg (·.commit.writing) hidle).trans (arbitrate_writing _), rfl⟩

end Sys2Proof.Machine
end

section
/-! SUPPORT. The answer of a patrol read: what the scanner clears and what it hands on (R150, R154). -/

namespace Sys2Proof.Machine

/-! ## When the scanner is HALTED (Table 8-1, R154) -/

theorem patrolState_of_health_failed {s : State} (h : s.health.state = .failed) : s.patrolState = .halted := if_pos h

theorem patrolState_ne_halted {s : State} (hf : s.health.state ≠ .failed) (hl : s.loader.state = .ready) : s.patrolState ≠ .halted := by
  have hloading : ¬ s.loader.isLoading = true := by simp [Loader.isLoading, hl]
  have hloader : ¬ s.loader.state = .failed := by simp [hl]
  rw [State.patrolState, if_neg hf, if_neg hloading, if_neg hloader]
  split <;> nofun

/-! ## The outcome (R150) -/

/-- A poisoned UNCORRECTABLE line is only counted; any other outcome is handed on as that of a host read is (R82). -/
theorem patrolHandOn_eq {s : State} (hf : s.health.state ≠ .failed) (block : Nat) (d : Delivered) :
    s.patrolHandOn block d = { s with
      health := { s.health with counters := outcomeCounters s.health.counters d }
      posted := if d.isUncorrectable = true ∧ d.poison = true then s.posted else s.posted ++ outcomeRequests block d } := by
  by_cases hp : d.isUncorrectable = true ∧ d.poison = true
  · have hcounters : outcomeCounters s.health.counters d = countUncorrectable s.health.counters := if_pos hp.1
    rw [State.patrolHandOn, if_pos (Bool.and_eq_true_iff.2 hp), if_pos hp, hcounters]
    exact count_running hf countUncorrectable
  · rw [State.patrolHandOn, if_neg (hp ∘ Bool.and_eq_true_iff.1), if_neg hp]
    exact handOn_eq (.inl hf) block

/-! ## The answer (R150, R154) -/

/-- The scanner without an outstanding read. -/
def State.patrolCleared (s : State) : State := s.setPatrol { s.patrol with outstanding := none }

section
variable {s : State} {r : PatrolRead} (ho : s.patrol.outstanding = some r) (d : Delivered)
include ho

theorem patrolAnswered_halted (h : s.patrolState = .halted) : s.patrolAnswered d = s.patrolCleared := by
  simp only [State.patrolAnswered, ho, h, if_true]
  rfl

theorem patrolAnswered_handsOn (h : s.patrolState ≠ .halted) :
    s.patrolAnswered d = s.patrolCleared.patrolHandOn r.block d := by
  simp only [State.patrolAnswered, ho, h, if_false]
  rfl

end

/-- The exec of the answer of a patrol read (R9, R150). -/
theorem exec_patrolReadAnswer {s : State} {d : Delivery} (h : s.deliveredFor .patrolReadAnswer = some d) :
    exec .patrolReadAnswer s = .next ((s.withoutDelivery d .patrolReadAnswer).patrolAnswered d.answer).arbitrate :=
  congrArg Host.Outcome.next (deliver_eq h State.patrolAnswered)

/-- Settles O36: a READY part that has not failed is not HALTED and hands the outcome on (`patrolHandOn_eq`); a failed one only clears the
read (`patrolAnswered_halted`). -/
theorem patrolReadIsHandedOn : Obligations.PatrolReadIsHandedOn := by
  intro s d r hd ho s0
  rw [exec_patrolReadAnswer hd]
  refine ⟨fun hf hl => ?handedOn, fun hf => ?halted⟩
  case handedOn =>
    rw [patrolAnswered_handsOn (s := s.withoutDelivery d _) ho d.answer (patrolState_ne_halted hf hl),
      patrolHandOn_eq (s := (s.withoutDelivery d _).patrolCleared) hf]
    rfl
  case halted =>
    rw [patrolAnswered_halted (s := s.withoutDelivery d _) ho d.answer (patrolState_of_health_failed hf)]
    rfl

end Sys2Proof.Machine
end

section
/-! SUPPORT. A report at the health block, an append to the event log, and an ending taken by the link (R156 to R163, R166, R173, R174). -/

namespace Sys2Proof.Machine

/-! ## The health block (R156 to R158) -/

/-- A report does not touch the state in force (R156). -/
theorem applyInput_state (h : HealthBlock) (i : HealthInput) : (applyInput h i).state = h.state := by
  cases i <;> rfl

/-- The rows of Table 9-1, highest first, by the codes of their states. -/
theorem healthCode_derivedHealth (h : HealthBlock) : healthCode (derivedHealth h) =
    if h.copyA = .failed ∧ h.copyB = .failed ∨ h.overflow = true ∨ h.startup = some true then 3
    else if h.free = 0 ∨ h.lost ≠ 0 ∨ h.copyA = .failed ∨ h.copyB = .failed then 2
    else if h.free ≤ 128 then 1
    else 0 := by
  simp only [derivedHealth, apply_ite healthCode]
  rfl

theorem healthCode_higherHealth (a b : Health) : healthCode (higherHealth a b) = max (healthCode a) (healthCode b) := by
  unfold higherHealth
  split
  next h => exact (max_eq_right h.le).symm
  next h => exact (max_eq_left (not_lt.1 h)).symm

section
variable {s : State} {i : HealthInput} {new : Health}
  (hnew : higherHealth s.health.state (derivedHealth (applyInput s.health i)) = new)
include hnew

/-- The state in force is no lower than the derived one: the input alone changes (R157). -/
theorem reportHealth_stays (h : new = s.health.state) : s.reportHealth i = s.setHealth (applyInput s.health i) := by
  have hstate : { applyInput s.health i with state := s.health.state } = applyInput s.health i := by rw [← applyInput_state s.health i]
  simp only [State.reportHealth, hnew, h, if_true, hstate]

/-- The state rises to the derived one, which is logged and, if it is FAILED, told to every block (R157, R158). -/
theorem reportHealth_rises (h : new ≠ s.health.state) : s.reportHealth i = { s with
    health := { applyInput s.health i with state := new }
    log := appendRecord s.log { kind := .healthChanged, value := healthCode new }
    posted := s.posted ++ if new = .failed then failedNotices else [] } := by
  simp only [State.reportHealth, hnew, if_neg h]
  split
  next => rfl
  next => rw [List.append_nil]; rfl

end

/-- The exec of a report out of reset (R156). -/
theorem exec_healthReport {s : State} (h : s.inReset = false) (i : HealthInput) :
    exec (.healthReport i) s = .next ((s.without (.healthReport i)).reportHealth i) :=
  congrArg Host.Outcome.next (handOver_eq h _ fun t => t.reportHealth i)

/-- Settles O45: the new state is the higher one by its code (`healthCode_higherHealth`), and the report ends in one of the two cases of
`reportHealth_stays` and `reportHealth_rises`. -/
theorem healthReportTakesTheHigherState : Obligations.HealthReportTakesTheHigherState := by
  refine ⟨fun c => ⟨rfl, rfl, rfl, rfl, rfl, fun _ => rfl, fun _ _ => rfl, fun _ _ _ => rfl⟩, ?report⟩
  intro input s hup s0 h derived
  have hinput : applyInput s.health input = h := by cases input <;> rfl
  have hderived : healthCode (derivedHealth (applyInput s.health input)) = derived := by
    rw [hinput]
    exact healthCode_derivedHealth h
  refine ⟨higherHealth s.health.state (derivedHealth (applyInput s.health input)), ?code, fun hsame => ?stays, fun hrise => ?rises⟩
  case code => rw [healthCode_higherHealth, hderived]
  case stays =>
    rw [exec_healthReport hup, reportHealth_stays (s := s0) rfl hsame, ← hinput]
    rfl
  case rises =>
    rw [exec_healthReport hup, reportHealth_rises (s := s0) rfl hrise, ← hinput]
    rfl

/-! ## The event log (R162, R163, R166) -/

/-- The alert class of Table 9-3 as a list. -/
theorem isAlertClass_eq_mem (k : EventKind) : isAlertClass k = decide (k ∈ [EventKind.relocAbandoned, .blockLost, .dataDiscarded,
    .metadataCopyFailed, .healthChanged, .mediaTimeout]) := by
  cases k <;> rfl

/-- The ranges of R162. -/
theorem eventInRange_iff (b : EventBody) : eventInRange b = true ↔ (∀ n, b.block = some n → n < 260080) ∧
    (∀ n, b.spare = some n → n < 2048) ∧ (∀ n, b.line = some n → n < 64) ∧ b.value < 4294967296 := by
  simp only [eventInRange, Option.all_eq_true, Bool.and_eq_true, decide_eq_true_eq, and_assoc]
  rfl

/-- The exec of an append out of reset (R163). -/
theorem exec_eventAppend {s : State} (h : s.inReset = false) {b : EventBody} (hb : eventInRange b = true) :
    exec (.eventAppend b) s = .next ((s.without (.eventAppend b)).append b) :=
  congrArg Host.Outcome.next ((handOver_eq h _ _).trans (if_pos hb))

/-! ## The endings (R173, R174) -/

/-- An ending that meets no PENDING record of its command changes nothing (R174). -/
theorem endLong_unawaited {s : State} {code : LongCode} (h : ∀ r, s.link.long = some r → r.code ≠ code ∨ r.ended ≠ none)
    (result : LongResult) (spare : Nat) : s.endLong code result spare = s := by
  unfold State.endLong
  split
  next r hr => exact if_neg (not_and_or.2 (h r hr))
  next => rfl

/-- The exec of an ending out of reset (R173). -/
theorem exec_longCommandEnding {s : State} (h : s.inReset = false) (code : LongCode) (result : LongResult) (spare : Nat) :
    exec (.longCommandEnding code result spare) s =
      .next ((s.without (.longCommandEnding code result spare)).endLong code result spare) :=
  congrArg Host.Outcome.next (handOver_eq h _ fun t => t.endLong code result spare)

/-- Settles O46: a record in range is appended (`eventInRange_iff`), and an ending meets its PENDING record (`endLong_pending`) or none
(`endLong_unawaited`). -/
theorem eventsAreAppendedAndEndingsTaken : Obligations.EventsAreAppendedAndEndingsTaken := by
  refine ⟨fun body s hup hblock hspare hline hvalue => ?append, ?ending⟩
  case append =>
    rw [exec_eventAppend hup ((eventInRange_iff body).2 ⟨hblock, hspare, hline, hvalue⟩), ← isAlertClass_eq_mem]
    rfl
  case ending =>
    intro code result spare s hup s0
    rw [exec_longCommandEnding hup]
    refine ⟨fun r hr hcode he => ?awaited, fun hnone => ?unawaited⟩
    case awaited =>
      subst hcode
      rw [endLong_pending (s := s.without _) hr he]
      rfl
    case unawaited => rw [endLong_unawaited (s := s.without _) hnone]

end Sys2Proof.Machine
end

section
/-! SUPPORT. The inspection commands: the checks that they pass in every health state, and their payloads as fields of given widths (R164,
R172, R175 to R177). -/

namespace Sys2Proof.Machine

/-! ## The checks (Table 10-1) -/

/-- A frame that is no retry and that no check turns away is answered by its command's own rule (R170, R171). -/
theorem takeFrame_passed {s : State} {c : MgmtCode} {seq : Byte} {params : List Byte} (hup : s.inReset = false)
    (hseq : s.link.lastSeq ≠ some seq) (hcheck : s.checkFrame c params = none) (body : State → Reply) :
    s.takeFrame c seq params body = (body s).finish seq := by
  simp only [State.takeFrame, State.receive, State.whenUp, hup, Bool.false_eq_true, if_false, if_neg hseq, State.checked, hcheck]

theorem waitsOnLong_of_takenInFailed {c : MgmtCode} (h : takenInFailed c = true) : waitsOnLong c = false := by
  revert h
  cases c <;> decide

/-- A command that is taken in FAILED waits on no long command: only its length and a start-up can turn it away (R171). -/
theorem checkFrame_inspection {s : State} {c : MgmtCode} {params : List Byte} (hc : takenInFailed c = true)
    (hlen : params.length = paramLength c) (hload : s.loader.isLoading = false ∨ c = .getStatus) : s.checkFrame c params = none := by
  have hstart : ¬ (s.loader.isLoading = true ∧ c ≠ .getStatus) := by
    rintro ⟨hl, hn⟩
    rcases hload with h | h
    · exact absurd (h.symm.trans hl) nofun
    · exact hn h
  rw [State.checkFrame, if_neg (not_not.2 hlen), if_neg hstart, if_neg (by simp [hc]), if_neg (by simp [waitsOnLong_of_takenInFailed hc])]

/-- After start-up no check turns an inspection command away, in any health state and whatever is PENDING. -/
theorem State.Hears.inspects {s : State} {seq : Byte} (hs : s.Hears seq) {c : MgmtCode} (hc : takenInFailed c = true)
    {params : List Byte} (hlen : params.length = paramLength c) : s.checkFrame c params = none :=
  checkFrame_inspection hc hlen (.inl (isLoading_eq_false.2 hs.2.2))

/-- A command that only informs changes the link's response alone (R170, R175). -/
theorem takeFrame_informs {s : State} {c : MgmtCode} {seq : Byte} {params : List Byte} (hup : s.inReset = false)
    (hseq : s.link.lastSeq ≠ some seq) (hcheck : s.checkFrame c params = none) (payload : State → List Byte) {bytes : List Byte}
    (h : payload s = bytes) : (Host.Outcome.next (s.takeFrame c seq params fun t => t.inform (payload t)) :
      Host.Outcome State Fault Refusal) = .next (s.answered seq .ok bytes) := by
  rw [takeFrame_passed hup hseq hcheck, h]
  rfl

/-! ## The parts of a payload that are not one field (Tables 10-7 to 10-10) -/

/-- The number in all the parameter bytes of a frame. -/
theorem paramNat_all {params : List Byte} {k : Nat} (h : params.length = k) : paramNat params 0 k = leNat params := by
  subst h
  rw [paramNat, List.drop_zero, List.take_length]

theorem engineBlock_eq (r : Reloc) :
    engineBlock r = if r.engine = .idle then 0 else (r.record.map fun x => x.block).getD 0 := by
  unfold engineBlock
  cases r.engine <;> cases r.record <;> rfl

theorem presenceByte_eq (b : EventBody) : presenceByte b = bitOf b.block.isSome + 2 * bitOf b.spare.isSome +
    4 * bitOf b.line.isSome + 8 * bitOf b.cause.isSome + 16 * (b.cause.map causeCode).getD 0 := by
  unfold presenceByte
  cases b.cause <;> rfl

/-! ## GET_RESULT (R172) -/

section
variable {s : State} {seq : Byte} (hs : s.Hears seq)
include hs

theorem exec_getResult : exec (.getResult seq []) s = .next (s.reportResult.finish seq) :=
  congrArg Host.Outcome.next (takeFrame_passed hs.1 hs.2.1 (hs.inspects (c := .getResult) rfl rfl) State.reportResult)

theorem exec_getResult_none (h : s.link.long = none) : exec (.getResult seq []) s = .next (s.answered seq .refused []) := by
  rw [exec_getResult hs, State.reportResult, h]
  rfl

variable {r : LongRecord} (hr : s.link.long = some r)
include hr

theorem exec_getResult_pending (he : r.ended = none) : exec (.getResult seq []) s =
    .next (s.answered seq .pending [BitVec.ofNat 8 (longCodeByte r.code), r.seq]) := by
  simp only [exec_getResult hs, State.reportResult, hr, he]
  rfl

theorem exec_getResult_ended {result : LongResult} (he : r.ended = some result) : exec (.getResult seq []) s =
    .next (s.answered seq .ok ([BitVec.ofNat 8 (longCodeByte r.code), r.seq] ++ leBytes 1 (resultCode result) ++ leBytes 2 r.spare)) := by
  simp only [exec_getResult hs, State.reportResult, hr, he]
  rfl

end

/-- Settles O49: every frame passes the checks (`State.Hears.inspects`), GET_STATUS also during start-up, and each payload is that of
its fields. -/
theorem inspectionCommandsReportTheState : Obligations.InspectionCommandsReportTheState := by
  refine ⟨rfl, rfl, rfl, rfl, rfl, rfl, rfl, rfl, ?_⟩
  intro s seq hup hseq fields flag logged mapped
  have hlogged : eventBytes = logged := funext fun r => by
    simp only [eventBytes, presenceByte_eq, logged, fields, List.flatMap_cons, List.flatMap_nil, List.append_assoc, List.append_nil]
    rfl
  have hmapped : remapBytes = mapped := funext fun ⟨_, _, state⟩ => by cases state <;> rfl
  refine ⟨?status, fun hs => ?_⟩
  case status =>
    refine takeFrame_informs hup hseq (checkFrame_inspection (c := .getStatus) rfl rfl (.inr rfl)) _ ?_
    unfold State.statusPayload
    simp only [engineBlock_eq, fields, List.flatMap_cons, List.flatMap_nil, List.append_assoc, List.append_nil]
    rfl
  have informs {c : MgmtCode} (hc : takenInFailed c = true) {params : List Byte} (hlen : params.length = paramLength c) :=
    takeFrame_informs hup hseq (hs.inspects hc hlen)
  refine ⟨exec_getResult_none hs, fun r hr => ⟨exec_getResult_pending hs hr, fun _ => exec_getResult_ended hs hr⟩,
    ?config, fun params hlen => ?log, fun params hlen => ?remap, fun first => ?lost, fun first => ?watch, ?queue⟩
  case config => exact informs (c := .getConfig) rfl rfl _ rfl
  case log =>
    refine informs (c := .readLog) rfl hlen _ ?_
    rw [paramNat_all hlen, hlogged]
    rfl
  case remap =>
    refine informs (c := .readRemap) rfl hlen _ ?_
    rw [paramNat_all hlen, remapPage, hmapped]
    rfl
  case lost =>
    refine informs (c := .readLost) rfl rfl _ ?_
    rw [paramNat_all (params := [first]) (k := 1) rfl]
    rfl
  case watch =>
    refine informs (c := .readWatch) rfl rfl _ ?_
    rw [paramNat_all (params := [first]) (k := 1) rfl]
    rfl
  case queue => exact informs (c := .readQueue) rfl rfl _ rfl

end Sys2Proof.Machine
end

section
/-! SUPPORT. A frame at the link: the check byte, the rows of Table 10-7, the transactions, and the checks of Table 10-1 (R168 to R171,
R185). -/

namespace Sys2Proof.Machine

/-! ## The check byte (section 10.7) -/

theorem crcShift_eq_iterate (k : Nat) : crcShift k = (crcShift 1)^[k] := by
  induction k with
  | zero => rfl
  | succ k ih => exact congrArg (· ∘ crcShift 1) ih

theorem crc8From_append (bytes more : List Byte) (c : Byte) : crc8From c (bytes ++ more) = crc8From (crc8From c bytes) more := by
  induction bytes generalizing c with
  | nil => rfl
  | cons b rest ih => exact ih _

/-- The CRC-8 takes in one byte more by eight steps of its register. -/
theorem crc8_concat (bytes : List Byte) (b : Byte) : crc8 (bytes ++ [b]) = (crcShift 1)^[8] (crc8 bytes ^^^ b) := by
  rw [crc8, crc8From_append, ← crcShift_eq_iterate]
  rfl

/-! ## The rows of Table 10-7 -/

/-- Each command of Table 10-7 has one code. -/
theorem eq_codeByte_of_mgmtCodeOf {code : Byte} {c : MgmtCode} (h : mgmtCodeOf code.toNat = some c) : code = codeByte c := by
  apply BitVec.eq_of_toNat_eq
  revert h
  generalize code.toNat = n
  unfold mgmtCodeOf
  split <;> rintro ⟨⟩ <;> rfl

theorem mgmtCodeOf_eq_none {code : Byte} (h : ∀ c, codeByte c ≠ code) : mgmtCodeOf code.toNat = none :=
  Option.eq_none_iff_forall_ne_some.2 fun c hc => h c (eq_codeByte_of_mgmtCodeOf hc).symm

theorem frameRow_of_mgmtCodeOf_none {code : Byte} (h : mgmtCodeOf code.toNat = none) (seq : Byte) (params : List Byte) :
    frameRow code seq params = .unknownCommand code seq params := by
  simp only [frameRow, h]

theorem configRow_mem (seq : Byte) (params : List Byte) :
    configRow seq params ∈ [.setWriteMode seq params, .setDrainThreshold seq params, .setEntryAgeTimer seq params,
      .setCorrectionThreshold seq params, .setPatrolEnable seq params, .setPatrolInterval seq params] := by
  unfold configRow
  split_ifs <;> simp

theorem patrolRow_mem (seq : Byte) (params : List Byte) :
    patrolRow seq params ∈ [.patrolStop seq params, .patrolStart seq params, .patrolRestart seq params] := by
  unfold patrolRow
  split_ifs <;> simp

/-! ## What a row does with its frame (R170, R171) -/

/-- Every row of a command takes its frame through the checks of that command, before a rule of its own. -/
theorem exec_frameRow_takes (c : MgmtCode) (seq : Byte) (params : List Byte) :
    ∃ body, ∀ s, exec (frameRow (codeByte c) seq params) s = .next (s.takeFrame c seq params body) := by
  cases c
  case setConfig =>
    have h := configRow_mem seq params
    simp only [List.mem_cons, List.not_mem_nil, or_false] at h
    show ∃ body, ∀ s, exec (configRow seq params) s = _
    rcases h with h | h | h | h | h | h <;> rw [h] <;> exact ⟨_, fun _ => rfl⟩
  case patrolControl =>
    have h := patrolRow_mem seq params
    simp only [List.mem_cons, List.not_mem_nil, or_false] at h
    show ∃ body, ∀ s, exec (patrolRow seq params) s = _
    rcases h with h | h | h <;> rw [h] <;> exact ⟨_, fun _ => rfl⟩
  all_goals exact ⟨_, fun _ => rfl⟩

theorem exec_unknownCommand {code : Byte} (h : mgmtCodeOf code.toNat = none) (seq : Byte) (params : List Byte) (s : State) :
    exec (.unknownCommand code seq params) s = .next (s.receive seq fun s => s.refuse .badCmd) := by
  show execUnknownCommand code seq params s = _
  simp only [execUnknownCommand, h]

/-- A frame of any code is received as R170 says: dropped in reset, and a retry answered from the cached response. -/
theorem exec_frameRow_receives (code seq : Byte) (params : List Byte) :
    ∃ take, ∀ s, exec (frameRow code seq params) s = .next (s.receive seq take) := by
  cases h : mgmtCodeOf code.toNat with
  | none =>
    rw [frameRow_of_mgmtCodeOf_none h]
    exact ⟨_, exec_unknownCommand h seq params⟩
  | some c =>
    obtain rfl := eq_codeByte_of_mgmtCodeOf h
    obtain ⟨body, hbody⟩ := exec_frameRow_takes c seq params
    exact ⟨fun s => s.checked c params body, hbody⟩

theorem receive_inReset {s : State} (h : s.inReset = true) (seq : Byte) (take : State → Reply) : s.receive seq take = s := if_pos h

section
variable {s : State} (hup : s.inReset = false) {seq : Byte}
include hup

theorem whenUp_eq (f : State → State) : s.whenUp f = f s := if_neg (by simp [hup])

theorem receive_retry (h : s.link.lastSeq = some seq) (take : State → Reply) :
    s.receive seq take = s.setLink { s.link with readable := .cached } :=
  (whenUp_eq hup _).trans (if_pos h)

variable (hseq : s.link.lastSeq ≠ some seq)
include hseq

theorem receive_new (take : State → Reply) : s.receive seq take = (take s).finish seq := (whenUp_eq hup _).trans (if_neg hseq)

/-- A check that matches answers its status with an empty payload, and nothing else changes, whatever the command. -/
theorem exec_frameRow_refused {c : MgmtCode} {params : List Byte} {status : FrameStatus} (hcheck : s.checkFrame c params = some status) :
    exec (frameRow (codeByte c) seq params) s = .next (s.answered seq status []) := by
  obtain ⟨body, hbody⟩ := exec_frameRow_takes c seq params
  have hchecked : s.checked c params body = s.refuse status := by simp only [State.checked, hcheck]
  rw [hbody, State.takeFrame, receive_new hup hseq, hchecked, finish_refuse]

end

/-! ## The checks in their order (Table 10-1) -/

section
variable {s : State} {c : MgmtCode} {params : List Byte}

theorem checkFrame_badParam (h : params.length ≠ paramLength c) : s.checkFrame c params = some .badParam := if_pos h

variable (hlen : params.length = paramLength c)
include hlen

theorem checkFrame_notReady (h : s.loader.isLoading = true ∧ c ≠ .getStatus) : s.checkFrame c params = some .notReady :=
  (if_neg (not_not.2 hlen)).trans (if_pos h)

variable (hload : ¬ (s.loader.isLoading = true ∧ c ≠ .getStatus))
include hload

theorem checkFrame_failed (h : s.health.state = .failed ∧ takenInFailed c = false) : s.checkFrame c params = some .failed :=
  (if_neg (not_not.2 hlen)).trans ((if_neg hload).trans (if_pos h))

theorem checkFrame_busy (hhealth : ¬ (s.health.state = .failed ∧ takenInFailed c = false))
    (h : s.pendingLong.isSome = true ∧ waitsOnLong c = true) : s.checkFrame c params = some .busy :=
  (if_neg (not_not.2 hlen)).trans ((if_neg hload).trans ((if_neg hhealth).trans (if_pos h)))

end

/-- The commands that change the part (Table 10-1, check 4). -/
theorem takenInFailed_eq_false_iff (c : MgmtCode) : takenInFailed c = false ↔
    c ∈ [MgmtCode.abort, .setConfig, .setLimit, .freezeLimit, .patrolControl, .flush, .relocateBlock] := by
  cases c <;> decide

/-- The commands that find a long command in their way (Table 10-1, check 5). -/
theorem waitsOnLong_iff (c : MgmtCode) :
    waitsOnLong c = true ↔ c ∈ [MgmtCode.flush, .relocateBlock, .setLimit, .setConfig, .patrolControl] := by
  cases c <;> decide

/-! ## The transactions (R168, R169, R170, R185) -/

theorem frameDamaged_iff (frame : List Byte) : frameDamaged frame = true ↔
    frame.length < 4 ∨ 32 < (frame.getD 2 0).toNat ∨ frame.length ≠ (frame.getD 2 0).toNat + 4 ∨
      frame.getLast? ≠ some (crc8 frame.dropLast) := by
  simp only [frameDamaged, Bool.or_eq_true, decide_eq_true_eq, or_assoc]

theorem acknowledges_iff (s : State) (address : Nat) :
    s.acknowledges address = true ↔ s.inReset = false ∧ address = 88 + s.pins.strap.val := by
  show s.acknowledges address = true ↔ s.inReset = false ∧ address = s.linkAddress
  simp [State.acknowledges]

theorem decodeFrame_damaged {frame : List Byte} (hne : frame ≠ []) (h : frameDamaged frame = true) :
    decodeFrame frame = some (.damagedFrame frame) :=
  (if_neg (by simpa using hne)).trans (if_pos h)

theorem decodeFrame_intact {frame : List Byte} (hne : frame ≠ []) (h : ¬ frameDamaged frame = true) :
    decodeFrame frame = some (frameRow (frame.getD 0 0) (frame.getD 1 0) ((frame.drop 3).dropLast)) :=
  (if_neg (by simpa using hne)).trans (if_neg h)

section
variable {s : State} {address : Nat}

theorem writeTransaction_acknowledged (h : s.acknowledges address = true) (frame : List Byte) :
    s.writeTransaction address frame = decodeFrame frame := if_pos h

/-- The bytes read are those of the readable response, then bytes of 255 (R170). -/
theorem readTransaction_acknowledged (h : s.acknowledges address = true) (n : Nat) :
    ∃ bytes, s.readTransaction address n = some bytes ∧ bytes.length = n ∧
      ∀ i, i < n → bytes.getD i 0 = (readableFrame s.link).getD i 255 := by
  refine ⟨_, if_pos h, by simp, fun i hi => ?_⟩
  simp [List.getD, hi]

variable (h : ¬ s.acknowledges address = true)
include h

theorem writeTransaction_unacknowledged (frame : List Byte) : s.writeTransaction address frame = none := if_neg h

theorem readTransaction_unacknowledged (n : Nat) : s.readTransaction address n = none := if_neg h

end

/-! ## The frame of a command (Table 10-6) -/

/-- Settles O56: the rows of the link are read back by their laws; no frame carries any other command. -/
theorem framesAreReadBack : Obligations.FramesAreReadBack := by
  intro c
  cases c
  case damagedFrame bytes => exact Laws.FrameRoundTrip.damagedFrame bytes
  case unknownCommand code seq params => exact Laws.FrameRoundTrip.unknownCommand code seq params
  case getStatus seq params => exact Laws.FrameRoundTrip.getStatus seq params
  case getResult seq params => exact Laws.FrameRoundTrip.getResult seq params
  case getConfig seq params => exact Laws.FrameRoundTrip.getConfig seq params
  case readLog seq params => exact Laws.FrameRoundTrip.readLog seq params
  case readRemap seq params => exact Laws.FrameRoundTrip.readRemap seq params
  case readLost seq params => exact Laws.FrameRoundTrip.readLost seq params
  case readWatch seq params => exact Laws.FrameRoundTrip.readWatch seq params
  case readQueue seq params => exact Laws.FrameRoundTrip.readQueue seq params
  case ackAlert seq params => exact Laws.FrameRoundTrip.ackAlert seq params
  case abort seq params => exact Laws.FrameRoundTrip.abort seq params
  case setWriteMode seq params => exact Laws.FrameRoundTrip.setWriteMode seq params
  case setDrainThreshold seq params => exact Laws.FrameRoundTrip.setDrainThreshold seq params
  case setEntryAgeTimer seq params => exact Laws.FrameRoundTrip.setEntryAgeTimer seq params
  case setCorrectionThreshold seq params => exact Laws.FrameRoundTrip.setCorrectionThreshold seq params
  case setPatrolEnable seq params => exact Laws.FrameRoundTrip.setPatrolEnable seq params
  case setPatrolInterval seq params => exact Laws.FrameRoundTrip.setPatrolInterval seq params
  case setLimit seq params => exact Laws.FrameRoundTrip.setLimit seq params
  case freezeLimit seq params => exact Laws.FrameRoundTrip.freezeLimit seq params
  case patrolStop seq params => exact Laws.FrameRoundTrip.patrolStop seq params
  case patrolStart seq params => exact Laws.FrameRoundTrip.patrolStart seq params
  case patrolRestart seq params => exact Laws.FrameRoundTrip.patrolRestart seq params
  case flush seq params => exact Laws.FrameRoundTrip.flush seq params
  case relocateBlock seq params => exact Laws.FrameRoundTrip.relocateBlock seq params
  all_goals exact fun _ _ carried => nomatch carried

/-! ## The parts of the statement -/

/-- A transaction at the part, at its address and at another. -/
theorem transactions_at (s : State) (address : Nat) :
    let heard := s.inReset = false ∧ address = 88 + s.pins.strap.val
    (heard →
      (∀ n, ∃ bytes, s.readTransaction address n = some bytes ∧ bytes.length = n ∧
        ∀ i, i < n → bytes.getD i 0 = (readableFrame s.link).getD i 255) ∧
      s.writeTransaction address [] = none ∧
      ∀ frame, frame ≠ [] →
        (frameDamaged frame = true → s.writeTransaction address frame = some (.damagedFrame frame)) ∧
        (¬ frameDamaged frame = true → s.writeTransaction address frame =
          some (frameRow (frame.getD 0 0) (frame.getD 1 0) ((frame.drop 3).dropLast)))) ∧
    (¬ heard → (∀ n, s.readTransaction address n = none) ∧ ∀ frame, s.writeTransaction address frame = none) := by
  simp only [← acknowledges_iff]
  refine ⟨fun h => ⟨readTransaction_acknowledged h, writeTransaction_acknowledged h [], fun frame hne => ?_⟩,
    fun h => ⟨readTransaction_unacknowledged h, writeTransaction_unacknowledged h⟩⟩
  rw [writeTransaction_acknowledged h]
  exact ⟨decodeFrame_damaged hne, decodeFrame_intact hne⟩

theorem exec_damagedFrame_inReset {s : State} (h : s.inReset = true) (frame : List Byte) :
    exec (.damagedFrame frame) s = .next s := congrArg Host.Outcome.next (if_pos h)

theorem exec_damagedFrame {s : State} (hup : s.inReset = false) {frame : List Byte} (hne : frame ≠ []) (h : frameDamaged frame = true) :
    exec (.damagedFrame frame) s = .next { s with link := { s.link with readable := .badCheck (frame.getD 1 0) } } :=
  congrArg Host.Outcome.next ((whenUp_eq hup _).trans (if_pos ⟨h, hne⟩))

theorem exec_frameRow_inReset {s : State} (h : s.inReset = true) (code seq : Byte) (params : List Byte) :
    exec (frameRow code seq params) s = .next s := by
  obtain ⟨take, htake⟩ := exec_frameRow_receives code seq params
  rw [htake, receive_inReset h]

theorem exec_frameRow_retry {s : State} (hup : s.inReset = false) {seq : Byte} (h : s.link.lastSeq = some seq) (code : Byte)
    (params : List Byte) : exec (frameRow code seq params) s = .next { s with link := { s.link with readable := .cached } } := by
  obtain ⟨take, htake⟩ := exec_frameRow_receives code seq params
  rw [htake, receive_retry hup h]
  rfl

theorem exec_unknownCommand_badCmd {s : State} (hup : s.inReset = false) {seq : Byte} (hseq : s.link.lastSeq ≠ some seq) {code : Byte}
    (h : mgmtCodeOf code.toNat = none) (params : List Byte) :
    exec (.unknownCommand code seq params) s = .next (s.answered seq .badCmd []) := by
  rw [exec_unknownCommand h, receive_new hup hseq, finish_refuse]

/-- Settles O48: the codes and the check byte, then the transactions, and each check of Table 10-1 by what it answers for every row. -/
theorem framesPassTheChecksOfTheLink : Obligations.FramesPassTheChecksOfTheLink := by
  unfold Obligations.FramesPassTheChecksOfTheLink
  intro damaged known shift
  have hunlisted {code : Byte} (h : code ∉ known) : mgmtCodeOf code.toNat = none :=
    mgmtCodeOf_eq_none fun c hc => h (hc ▸ by cases c <;> decide)
  refine ⟨⟨rfl, crc8_concat⟩, rfl, rfl, fun _ _ _ => rfl, fun seq params => ⟨rfl, configRow_mem seq params, patrolRow_mem seq params,
    fun code h => frameRow_of_mgmtCodeOf_none (hunlisted h) seq params⟩, fun s address => ?transactions,
    fun s h => ⟨exec_frameRow_inReset h, exec_damagedFrame_inReset h⟩, fun s hup => ⟨fun frame hne h => ?damaged,
    fun code seq params h => exec_frameRow_retry hup h code params, fun seq hseq =>
      ⟨fun code params h => exec_unknownCommand_badCmd hup hseq (hunlisted h) params, fun c params => ?checks⟩⟩⟩
  case transactions =>
    have h := transactions_at s address
    simp only [frameDamaged_iff] at h
    exact h
  case damaged => exact exec_damagedFrame hup hne ((frameDamaged_iff frame).2 h)
  case checks =>
    intro answers loading refused
    have hloading : loading ↔ s.loader.isLoading = true ∧ c ≠ .getStatus := and_congr_left' (isLoading_iff _).symm
    have hrefused : refused ↔ s.health.state = .failed ∧ takenInFailed c = false := and_congr_right' (takenInFailed_eq_false_iff c).symm
    have answer {status : FrameStatus} (h : s.checkFrame c params = some status) : answers status :=
      exec_frameRow_refused hup hseq h
    rw [hloading, hrefused]
    exact ⟨fun h => answer (checkFrame_badParam h), fun hlen h => answer (checkFrame_notReady hlen h),
      fun hlen hl h => answer (checkFrame_failed hlen hl h),
      fun hlen hl hf hp hw => answer (checkFrame_busy hlen hl hf ⟨Option.isSome_iff_ne_none.2 hp, (waitsOnLong_iff c).2 hw⟩)⟩

end Sys2Proof.Machine
end

section
/-! SUPPORT. ACK_ALERT and the actions of PATROL_CONTROL (R152, R178, R182). -/

namespace Sys2Proof.Machine

/-! ## ACK_ALERT (R178) -/

/-- Settles O50: an inspection frame passes every check, and the command's rule clears the flag. -/
theorem ackAlertClearsTheAlert : Obligations.AckAlertClearsTheAlert := by
  intro s seq hs
  have ⟨hup, hseq, _⟩ := hs
  exact congrArg Host.Outcome.next
    (takeFrame_passed hup hseq (hs.inspects (c := .ackAlert) rfl rfl) fun t => (t.setLog { t.log with alert := false }).inform [])

/-! ## PATROL_CONTROL (R152, R182) -/

/-- The patrol scanner is PAUSED when it would run but for its enable or its control (Table 8-1). -/
theorem patrolState_paused_iff (s : State) : s.patrolState = .paused ↔
    s.health.state ≠ .failed ∧ s.loader.state = .ready ∧ ¬ (s.patrol.enable = true ∧ s.patrol.control = .run) := by
  unfold State.patrolState Loader.isLoading
  cases s.loader.state <;> by_cases hf : s.health.state = .failed <;> simp [hf]

/-- Control HOLD stops the timer of a running scanner. -/
theorem changePatrol_hold (s : State) : s.changePatrol { s.patrol with control := .hold } = s.setPatrol { s.patrol with
    control := .hold
    timer := if s.patrolState = .running then none else s.patrol.timer } := by
  have hafter : ¬ (s.setPatrol { s.patrol with control := .hold }).patrolState = .running := by
    simp [patrolState_running_iff]
  rw [changePatrol_eq]
  simp only [if_neg hafter]

/-- Control RUN starts the timer of a scanner that is PAUSED with its enable set, wherever its position is put. -/
theorem changePatrol_run {s : State} (hf : s.health.state ≠ .failed) (block line : Nat) :
    s.changePatrol { s.patrol with block := block, line := line, control := .run } = s.setPatrol { s.patrol with
      block := block
      line := line
      control := .run
      timer := if s.patrolState = .paused ∧ s.loader.state = .ready ∧ s.patrol.enable = true then some s.patrol.interval
        else s.patrol.timer } := by
  have hafter : (s.setPatrol { s.patrol with block := block, line := line, control := .run }).patrolState = .running ↔
      s.loader.state = .ready ∧ s.patrol.enable = true := by
    simp [patrolState_running_iff, hf]
  rw [changePatrol_eq]
  simp only [hafter, patrolState_running_iff, patrolState_paused_iff]
  by_cases hr : s.loader.state = .ready ∧ s.patrol.enable = true
  · by_cases hc : s.patrol.control = .run <;> simp [hf, hr, hc]
  · have hnot : ¬ (s.health.state ≠ .failed ∧ s.loader.state = .ready ∧ s.patrol.enable = true ∧ s.patrol.control = .run) := by tauto
    simp [hr, hnot]

/-- A PATROL_CONTROL frame that passes the checks of Table 10-1 acts at the scanner, or is refused when its action is not the row's. -/
theorem patrolControl_frame {s : State} {seq : Byte} (hs : s.Hears seq) (hf : s.health.state ≠ .failed) (hp : s.pendingLong = none)
    (action : Byte) (row : Nat) (p : State → Patrol) :
    s.takeFrame .patrolControl seq [action] (fun t => t.controlPatrol [action] row (p t)) =
      (if action.toNat ≠ row then s.refuse .badParam else (s.changePatrol (p s)).inform []).finish seq :=
  takeFrame_checked (c := .patrolControl) hs hf rfl (.inl hp) _

theorem patrolRow_otherAction {action : Byte} (h : 2 < action.toNat) (seq : Byte) :
    patrolRow seq [action] = .patrolStop seq [action] := by
  have hother {n : Nat} (hn : n ≤ 2) : ¬ isAction [action] n = true := by
    simp [isAction, paramByte]
    omega
  rw [patrolRow, if_neg (hother (by decide)), if_neg (hother (by decide))]

/-- Settles O53: the three actions by what they do to the scanner's timer, the refusals by the checks that every row shares. -/
theorem patrolControlActsAtTheScanner : Obligations.PatrolControlActsAtTheScanner := by
  intro s seq action run answered started
  have refuses {status : FrameStatus} (hup : s.inReset = false) (hseq : s.link.lastSeq ≠ some seq)
      (h : s.checkFrame .patrolControl [action] = some status) : run = .next (s.answered seq status []) :=
    exec_frameRow_refused (c := .patrolControl) hup hseq h
  refine ⟨fun hs hf hp => ?acts, fun hs hf => ?failed, fun hup hseq hl => ?notReady⟩
  case acts =>
    have acts {a : Byte} {row : Nat} (ha : a.toNat = row) {p : State → Patrol} {q : Patrol} (hq : s.changePatrol (p s) = s.setPatrol q) :
        (Host.Outcome.next (s.takeFrame .patrolControl seq [a] fun t => t.controlPatrol [a] row (p t)) :
          Host.Outcome State Fault Refusal) = .next (answered q) := by
      rw [patrolControl_frame hs hf hp, if_neg (not_not.2 ha), hq]
      rfl
    refine ⟨acts rfl (changePatrol_hold s), acts rfl (changePatrol_run hf _ _), acts rfl (changePatrol_run hf 0 0), fun h => ?_⟩
    have hrow : run = exec (.patrolStop seq [action]) s := congrArg (exec · s) (patrolRow_otherAction h seq)
    have hrefused := patrolControl_frame hs hf hp action 0 fun t => { t.patrol with control := .hold }
    rw [if_pos (by omega), finish_refuse] at hrefused
    rw [hrow]
    exact congrArg Host.Outcome.next hrefused
  case failed =>
    obtain ⟨hup, hseq, hended⟩ := hs
    have hload : ¬ (s.loader.isLoading = true ∧ MgmtCode.patrolControl ≠ .getStatus) := by
      simp [isLoading_eq_false.2 hended]
    exact refuses hup hseq (checkFrame_failed rfl hload ⟨hf, rfl⟩)
  case notReady => exact refuses hup hseq (checkFrame_notReady rfl ⟨(isLoading_iff _).2 hl, nofun⟩)

end Sys2Proof.Machine
end

section
/-! SUPPORT. The queue along the changes of a step: only `step` itself takes a command from it. -/

namespace Sys2Proof.Machine

/-- No change is one of the queue. -/
theorem Change.keeps_queue {s t : State} (c : Change s t) : t.pending = s.pending := by
  cases c with
  | pins | port | patrol | link | deliveries | posted | freeCount | health | limit | freeze | log | arrayOp | watch | hosting
  | relocation | loader | load => rfl

theorem Changes.keeps_queue {s t : State} (c : Changes s t) : t.pending = s.pending := by
  induction c with
  | refl => rfl
  | tail _ last ih => exact last.keeps_queue.trans ih

/-- Every command answers a next state with the same queue; a power-on reset keeps it too. -/
theorem exec_keeps_queue (c : Instr) (s : State) : ∃ t, exec c s = .next t ∧ t.pending = s.pending := by
  obtain ⟨t, ht, hc | ⟨_, r, hc⟩ | ⟨_, u, hc, rfl⟩⟩ := Changes.exec_answers c s
  · exact ⟨t, ht, hc.keeps_queue⟩
  · exact ⟨t, ht, hc.keeps_queue.trans (State.setArray_pending s _)⟩
  · have hu : u.powerCycle.pending = u.pending := rfl
    exact ⟨u.powerCycle, ht, hu.trans hc.keeps_queue⟩

theorem idle_posted {s : State} {c : Instr} {rest : List Instr} (h : s.posted = c :: rest) : s.idle = exec c s := by
  simp only [State.idle, h]

theorem idle_still {s : State} (h : s.posted = []) : s.idle = .next s := by
  simp only [State.idle, h]

/-- Settles O1: the state that a command runs on (`State.withRest`) is the state with the queue's rest. -/
theorem stepRunsTheFrontCommand : Obligations.StepRunsTheFrontCommand := fun _ _ _ h => step_cons h

/-- Settles O2: every command answers by changes, the end of an operation or a power-on reset (`Changes.exec_answers`), and none of
these reaches the queue; on an empty queue a step is `State.idle`. -/
theorem everyCommandAnswersAndAnEmptyQueueIdles : Obligations.EveryCommandAnswersAndAnEmptyQueueIdles :=
  ⟨exec_keeps_queue, fun _ hq => ⟨fun _ _ hp => (step_nil hq).trans (idle_posted hp), fun hp => (step_nil hq).trans (idle_still hp)⟩⟩

end Sys2Proof.Machine
end
